-- ==== Sys2Proof/Word.lean ====
section
/-! DEFINITION. The plain words of the SR-2408: bytes of the SPI port, slot and pin numbers, segment addresses, and
the one way a fixed table is written at an index. -/

namespace Sys2Proof

/-- One byte of the SPI message port (R161). -/
abbrev Byte := BitVec 8

/-- A channel slot, 0..7. -/
abbrev Slot := Fin 8

/-- A sensor pin, SP0..SP7. -/
abbrev Pin := Fin 8

/-- A field slot, 0..23. -/
abbrev FieldIx := Fin 24

/-- A segment address: common line 0..3 and segment line 0..32, numbered in address order, common line first
(00_scope.md, "Segment addresses and geometry"). Address `a` is common line `a / 33`, segment line `a % 33`. -/
abbrev SegAddr := Fin 132

/-- The table `v` with entry `i` replaced by `x`. -/
def vput {α : Type} {n : Nat} (v : Vector α n) (i : Fin n) (x : α) : Vector α n :=
  v.set i.val x i.isLt

end Sys2Proof
end

