-- ==== Sys2Proof/Config.lean ====
section
/-! DEFINITION. What the manual leaves open: the free values. -/

namespace Sys2Proof

/-- DESIGN CHOICE (notes/assumptions/2.md). The bytes READ_ATTENTION sends at positions to which the manual gives no value
(R176). The constant has no body, so nothing can be proved of its values; State.freeIx says which value comes next. -/
opaque Config.freeByte : Nat → Byte

/-- DESIGN CHOICE (notes/assumptions/2.md). The bytes that the report of a record sends at positions to which the manual
gives no value (positions of another kind in a field report, the unnamed bits of report bytes: R110, R176): at a
position of the report, one value for the bytes that the manual gives. A record that is read again unchanged is so
reported identically (R18). The constant has no body, so nothing can be proved of its values. -/
opaque Config.reportByte : List Byte → Nat → Byte

end Sys2Proof
end

