-- ==== Sys2Proof/Syntax.lean ====
section
/-! DEFINITION. The commands of the SR-2408: one constructor per row of spec/opcode_table.json, in the table's order.
A request of the host carries its payload, the bytes between the command code and the check byte of a COMMAND frame
that passed the form checks of R166; the bytes are read by the wire formats of R176. -/

namespace Sys2Proof

/-- The two blink phases and rates (R120, R135). -/
inductive BlinkRate where
  | slow
  | fast
  deriving DecidableEq, Repr

/-- What a FETCH command carries of the SPI traffic (R161, R163, R169). The table has no row of its own for the falling
edge of CS, for clock edges and for a transaction that is no command, so they come with its FETCH row (DESIGN CHOICE,
notes/assumptions/8.md). -/
inductive FetchPart where
  /-- CS falls, and the transaction it begins is still to come. -/
  | falls
  /-- `n` edges of the serial clock in the first byte have been taken, CS staying low. -/
  | clocked (n : Nat)
  /-- A transaction whose first byte names no kind, or in which no byte is received: a status poll. -/
  | poll
  /-- A transaction whose first byte is 3Ah, in which the host clocks `n` bytes more. -/
  | reads (n : Nat)
  deriving DecidableEq, Repr

/-- The commands: host requests, transactions of the host port, resets, timer expiries and the block's own events. -/
inductive Instr where
  | readStatus (payload : List Byte)
  | restart (payload : List Byte)
  | defineChannel (payload : List Byte)
  | modifyChannel (payload : List Byte)
  | retireChannel (payload : List Byte)
  | readChannel (payload : List Byte)
  | findChannel (payload : List Byte)
  | startChannel (payload : List Byte)
  | suspendChannel (payload : List Byte)
  | measureNow (payload : List Byte)
  | pauseSchedule (payload : List Byte)
  | resumeSchedule (payload : List Byte)
  | setCurve (payload : List Byte)
  | setLimits (payload : List Byte)
  | setStaleLimit (payload : List Byte)
  | bindField (payload : List Byte)
  | editField (payload : List Byte)
  | retargetField (payload : List Byte)
  | retireField (payload : List Byte)
  | readField (payload : List Byte)
  | readOwner (payload : List Byte)
  | setFieldValue (payload : List Byte)
  | setGlass (payload : List Byte)
  | holdDisplay (payload : List Byte)
  | releaseDisplay (payload : List Byte)
  | readPlane (payload : List Byte)
  | readAttention (payload : List Byte)
  | ackAttention (payload : List Byte)
  | setAttentionMask (payload : List Byte)
  /-- A COMMAND transaction with a frame error; the bytes received after 5Ch. -/
  | frameError (bytes : List Byte)
  /-- A COMMAND frame of good form whose code the table of R175 does not list. -/
  | unknownCommand (code : Byte) (payload : List Byte)
  /-- A COMMAND frame that ends in BUSY or INIT, whatever it holds. -/
  | commandDropped
  /-- A transaction whose first byte is 3Ah, or another part of the traffic that is no command; without a part it is a
  bare 3Ah, after which the host clocks nothing. -/
  | fetch (part : FetchPart := .reads 0)
  /-- A transaction whose first byte is C3h. -/
  | cancel
  | powerOnReset
  | rstnAsserted
  /-- Release of the reset, with the level of XSEL at that moment (`true` high, the internal oscillator). -/
  | resetRelease (xsel : Bool)
  | initialisationEnd
  | restartEnd
  | baseTick
  | intervalExpiry (slot : Slot)
  | staleLimitExpiry (slot : Slot)
  | holdExpiry
  | blinkToggle (rate : BlinkRate)
  | frameEnd
  | pick
  | sensorEdge
  | gateExpiry
  | edgeTimerExpiry
  | counterOverflow
  | render
  | fastClockPeriod
  deriving DecidableEq, Repr

end Sys2Proof
end

