-- ==== Sys2Proof/Decode.lean ====
section
/-! DEFINITION. Reading commands off the wire. spec/opcode_table.json gives no row any bits, so no table word spells a
command. What the host port itself decodes is here: the check byte and form of a COMMAND frame (R166), the command
codes (R175) and the kind of a transaction (R163); and the frame that carries a given command. -/

namespace Sys2Proof

/-- The command a table word spells. No row of spec/opcode_table.json has bits ("fields": []), so there is none. -/
def decodeTableWord (_nbits _w : Nat) : Option Instr := none

/-- One step of the CRC-8 generator x⁸ + x² + x + 1, most significant bit first (R166). -/
def crcBit (r : Byte) : Byte :=
  if r.msb then (r <<< 1) ^^^ 0x07#8 else r <<< 1

/-- The check register after one more byte (R166). -/
def crcByte (r b : Byte) : Byte :=
  crcBit (crcBit (crcBit (crcBit (crcBit (crcBit (crcBit (crcBit (r ^^^ b))))))))

/-- The check byte of a frame: CRC-8 with initial value 0, no reflected bits and no final inversion (R166). -/
def crc8 (bytes : List Byte) : Byte := bytes.foldl crcByte 0#8

/-- The form checks of R166 on the bytes received after 5Ch: the command code and payload of a frame that passes
them, and nothing for a frame error. Bytes after the check byte are ignored (R163). -/
def judgeFrame (bytes : List Byte) : Option (Byte × List Byte) :=
  match bytes with
  | [] => none
  | n :: rest =>
    if 1 ≤ n.toNat ∧ n.toNat ≤ 62 then
      match rest.take n.toNat, rest.drop n.toNat with
      | code :: payload, check :: _ =>
        if crc8 (n :: code :: payload) = check then some (code, payload) else none
      | _, _ => none
    else none

/-- The request a command code of R175 names; nothing for a code the table does not list. -/
def requestOf (code : Byte) (payload : List Byte) : Option Instr :=
  match code.toNat with
  | 0x01 => some (.readStatus payload)
  | 0x02 => some (.restart payload)
  | 0x10 => some (.defineChannel payload)
  | 0x11 => some (.modifyChannel payload)
  | 0x12 => some (.retireChannel payload)
  | 0x13 => some (.readChannel payload)
  | 0x14 => some (.findChannel payload)
  | 0x20 => some (.startChannel payload)
  | 0x21 => some (.suspendChannel payload)
  | 0x22 => some (.measureNow payload)
  | 0x23 => some (.pauseSchedule payload)
  | 0x24 => some (.resumeSchedule payload)
  | 0x30 => some (.setCurve payload)
  | 0x31 => some (.setLimits payload)
  | 0x32 => some (.setStaleLimit payload)
  | 0x40 => some (.bindField payload)
  | 0x41 => some (.editField payload)
  | 0x42 => some (.retargetField payload)
  | 0x43 => some (.retireField payload)
  | 0x44 => some (.readField payload)
  | 0x45 => some (.readOwner payload)
  | 0x50 => some (.setFieldValue payload)
  | 0x60 => some (.setGlass payload)
  | 0x61 => some (.holdDisplay payload)
  | 0x62 => some (.releaseDisplay payload)
  | 0x63 => some (.readPlane payload)
  | 0x70 => some (.readAttention payload)
  | 0x71 => some (.ackAttention payload)
  | 0x72 => some (.setAttentionMask payload)
  | _ => none

/-- The command a COMMAND transaction spells, from the bytes after 5Ch: a request, an unknown command, or a frame
error (R166, R167). -/
def commandOf (bytes : List Byte) : Instr :=
  match judgeFrame bytes with
  | none => .frameError bytes
  | some (code, payload) => (requestOf code payload).getD (.unknownCommand code payload)

/-- The command a whole transaction spells, from every byte received between the edges of CS (R163). A transaction in
which no byte is received has the effect of a status poll (R161). -/
def transactionOf (bytes : List Byte) : Instr :=
  match bytes with
  | [] => .fetch .poll
  | first :: rest =>
    if first = 0x5C#8 then commandOf rest
    else if first = 0x3A#8 then .fetch (.reads rest.length)
    else if first = 0xC3#8 then .cancel
    else .fetch .poll

/-- The command code and payload of a command that a COMMAND frame of good form carries (R175). -/
def codeOf : Instr → Option (Byte × List Byte)
  | .readStatus p => some (0x01#8, p)
  | .restart p => some (0x02#8, p)
  | .defineChannel p => some (0x10#8, p)
  | .modifyChannel p => some (0x11#8, p)
  | .retireChannel p => some (0x12#8, p)
  | .readChannel p => some (0x13#8, p)
  | .findChannel p => some (0x14#8, p)
  | .startChannel p => some (0x20#8, p)
  | .suspendChannel p => some (0x21#8, p)
  | .measureNow p => some (0x22#8, p)
  | .pauseSchedule p => some (0x23#8, p)
  | .resumeSchedule p => some (0x24#8, p)
  | .setCurve p => some (0x30#8, p)
  | .setLimits p => some (0x31#8, p)
  | .setStaleLimit p => some (0x32#8, p)
  | .bindField p => some (0x40#8, p)
  | .editField p => some (0x41#8, p)
  | .retargetField p => some (0x42#8, p)
  | .retireField p => some (0x43#8, p)
  | .readField p => some (0x44#8, p)
  | .readOwner p => some (0x45#8, p)
  | .setFieldValue p => some (0x50#8, p)
  | .setGlass p => some (0x60#8, p)
  | .holdDisplay p => some (0x61#8, p)
  | .releaseDisplay p => some (0x62#8, p)
  | .readPlane p => some (0x63#8, p)
  | .readAttention p => some (0x70#8, p)
  | .ackAttention p => some (0x71#8, p)
  | .setAttentionMask p => some (0x72#8, p)
  | .unknownCommand code p => some (code, p)
  | .frameError _ => none
  | .commandDropped => none
  | .fetch _ => none
  | .cancel => none
  | .powerOnReset => none
  | .rstnAsserted => none
  | .resetRelease _ => none
  | .initialisationEnd => none
  | .restartEnd => none
  | .baseTick => none
  | .intervalExpiry _ => none
  | .staleLimitExpiry _ => none
  | .holdExpiry => none
  | .blinkToggle _ => none
  | .frameEnd => none
  | .pick => none
  | .sensorEdge => none
  | .gateExpiry => none
  | .edgeTimerExpiry => none
  | .counterOverflow => none
  | .render => none
  | .fastClockPeriod => none

/-- The COMMAND frame of a code and payload: 5Ch, length, code, payload, check byte (R166). -/
def frameOf (code : Byte) (payload : List Byte) : List Byte :=
  let n : Byte := BitVec.ofNat 8 (payload.length + 1)
  0x5C#8 :: n :: code :: payload ++ [crc8 (n :: code :: payload)]

/-- The bytes of the transaction that carries a command of the host; nothing for an event that is no whole transaction. -/
def transactionFor (c : Instr) : Option (List Byte) :=
  match c with
  | .frameError bytes => some (0x5C#8 :: bytes)
  | .fetch .falls => none
  | .fetch (.clocked _) => none
  | .fetch .poll => some [0x00#8]
  | .fetch (.reads n) => some (0x3A#8 :: List.replicate n 0x00#8)
  | .cancel => some [0xC3#8]
  | c => (codeOf c).map fun cp => frameOf cp.1 cp.2

end Sys2Proof
end

