-- ==== Sys2Proof/Machine/State.lean ====
section
/-! DEFINITION. The state of the SR-2408 as plain data, unit by unit (00_scope.md, "Units of the SR-2408"), and its
value at the power-on reset. Quantities the manual gives a range are natural numbers or integers; what it gives a
wrapping or a bounded number of positions is a Fin; only the cause mask, which the host writes whole, is a bit vector. -/

namespace Sys2Proof.Machine

/-! ## Channel records (chapters 1, 3, 4 and 5) -/

/-- A channel's tag, four characters padded with spaces (R1, R5). -/
structure Tag where
  c0 : Byte
  c1 : Byte
  c2 : Byte
  c3 : Byte
  deriving DecidableEq, Repr

/-- The counting methods of the CE (1.1). -/
inductive Method where
  | window
  | period
  deriving DecidableEq, Repr

/-- The live states of a channel slot (1.3). A slot that holds no channel is FREE. -/
inductive LiveState where
  | defined
  | active
  | suspended
  deriving DecidableEq, Repr

/-- A stored reference: the slot it names and the ref max age, present together (1.1, R7). -/
structure RefLink where
  slot : Slot
  maxAge : Nat
  deriving DecidableEq, Repr

/-- The definition part of a channel record (1.1), held by the CT. -/
structure ChannelDef where
  tag : Tag
  pin : Pin
  method : Method
  countLen : Nat
  settle : Nat
  timeout : Nat
  interval : Nat
  reference : Option RefLink
  notify : Bool
  deriving DecidableEq, Repr

/-- One breakpoint of a curve (R70). -/
structure Breakpoint where
  x : Nat
  y : Int
  deriving DecidableEq, Repr

/-- A present calibration curve (R70). -/
structure Curve where
  decimals : Nat
  points : List Breakpoint
  deriving DecidableEq, Repr

/-- A present limit set (R86). -/
structure Limits where
  low : Option Int
  high : Option Int
  hysteresis : Nat
  deriving DecidableEq, Repr

/-- The outcome of a channel's result (4.1). -/
inductive ResultOutcome where
  | none
  | good
  | under
  | over
  | overflow
  | noSignal
  | noReference
  deriving DecidableEq, Repr

/-- Whether a result has been refreshed within the stale limit (R82). -/
inductive Freshness where
  | fresh
  | stale
  deriving DecidableEq, Repr

/-- The limit state of a channel (R87). -/
inductive LimitState where
  | normal
  | low
  | high
  deriving DecidableEq, Repr

/-- The result part of a channel record (4.1), held by the RU. -/
structure Result where
  outcome : ResultOutcome
  raw : Option Nat
  ratio : Option Nat
  value : Option Int
  freshness : Option Freshness
  age : Option Nat
  seq : Nat
  limit : LimitState
  deriving DecidableEq, Repr

/-- The scheduling part of a channel record (3.1), held by the MS. The field `queued` of the manual is not stored
twice: it is yes exactly while the channel has an entry in the due queue (R46), and is read from the queue. A
present countdown is 1..16383. -/
structure Schedule where
  countdown : Option Nat
  oneShot : Bool
  notice : Bool
  unwaited : Bool
  late : Bool
  refTried : Bool
  deriving DecidableEq, Repr

/-- A live channel: the four parts of its record (chapter 1). -/
structure Channel where
  state : LiveState
  defn : ChannelDef
  curve : Option Curve
  limits : Option Limits
  staleLimit : Nat
  result : Result
  sched : Schedule
  deriving DecidableEq, Repr

/-- A channel slot: its generation, which outlives its channels, and the live channel in it; none is FREE (R3). -/
structure ChannelSlot where
  gen : Fin 16
  occupant : Option Channel
  deriving DecidableEq, Repr

/-- The Channel Table: slots, tag map (the tag entered for each slot) and pin ownership map (R5, R6). -/
structure ChannelTable where
  slots : Vector ChannelSlot 8
  tags : Vector (Option Tag) 8
  pins : Vector (Option Slot) 8
  deriving DecidableEq, Repr

/-! ## Scheduler and engine (chapters 2 and 3) -/

/-- The schedule mode (R61). -/
inductive ScheduleMode where
  | run
  | paused
  deriving DecidableEq, Repr

/-- The Measurement Scheduler's own state: the due queue, head first, and the schedule mode. -/
structure Scheduler where
  queue : List Slot
  mode : ScheduleMode
  deriving DecidableEq, Repr

/-- Where a conversion in flight stands (2.2); with no conversion the CE is IDLE. -/
inductive ConversionPhase where
  | settling
  | counting
  deriving DecidableEq, Repr

/-- The conversion context of a conversion in flight (2.2). The timers hold slow-clock periods remaining; a remaining
time of 0 is an expiry the event row has not yet taken. -/
structure Conversion where
  phase : ConversionPhase
  channel : Slot
  method : Method
  countLen : Nat
  timeout : Nat
  settleRemaining : Nat
  opened : Bool
  periodsRemaining : Nat
  count : Nat
  edgeTimer : Nat
  gateTimer : Option Nat
  deriving DecidableEq, Repr

/-- The Conversion Engine: its context (none is IDLE), the pin its multiplexer connects, and whether the sensor
oscillator runs (R22). -/
structure Engine where
  conv : Option Conversion
  mux : Option Pin
  oscillator : Bool
  deriving DecidableEq, Repr

/-! ## Fields and rendering (chapters 6 and 7) -/

/-- The condition of an INDICATOR field (R126). -/
inductive Condition where
  | high
  | low
  | alarm
  | doubt
  | stale
  | hostFlag
  deriving DecidableEq, Repr

/-- A field's kind with its parameters (6.3). -/
inductive FieldKind where
  | numeric (width : Nat) (points : Bool) (sign : Bool) (decimals : Nat)
  | bar (lo : Int) (hi : Int)
  | indicator (condition : Condition)
  | pattern
  deriving DecidableEq, Repr

/-- A field's source (6.4). -/
inductive Source where
  | host
  | detached
  | channel (slot : Slot) (gen : Fin 16)
  deriving DecidableEq, Repr

/-- Present host data (R100). -/
inductive HostDatum where
  | value (mantissa : Int)
  | flag (set : Bool)
  | pattern (elements : List Bool)
  deriving DecidableEq, Repr

/-- The blink modes (R120). -/
inductive BlinkMode where
  | none
  | always
  | onAlarm
  | onDoubt
  deriving DecidableEq, Repr

/-- A BOUND field (6.1). -/
structure Field where
  kind : FieldKind
  visible : Bool
  blinkMode : BlinkMode
  blinkRate : BlinkRate
  source : Source
  hostData : Option HostDatum
  segs : List SegAddr
  deriving DecidableEq, Repr

/-- A field slot: its generation and the BOUND field in it; none is FREE (R94, R96). -/
structure FieldSlot where
  gen : Fin 4
  occupant : Option Field
  deriving DecidableEq, Repr

/-- The Field Table: slots and the segment ownership map (R101), which holds no owner outside the geometry. -/
structure FieldTable where
  slots : Vector FieldSlot 24
  owners : Vector (Option FieldIx) 132
  deriving DecidableEq, Repr

/-- A segment state (7.4). -/
inductive SegState where
  | off
  | on
  | blinkSlow
  | blinkFast
  deriving DecidableEq, Repr

/-- A plane: one segment state for every address; addresses outside the current geometry are held OFF. -/
abbrev Plane := Vector SegState 132

/-- The plane with every address OFF. -/
def Plane.dark : Plane := Vector.replicate 132 .off

/-- The Render Engine: render queue, oldest first, pending plane and its changed mark (R114, R118). -/
structure Renderer where
  queue : List FieldIx
  plane : Plane
  changed : Bool
  deriving DecidableEq, Repr

/-! ## Glass scanner (chapter 8) -/

/-- The duty of the glass; `quarter` is 1/4, `third` is 1/3. -/
inductive Duty where
  | quarter
  | third
  deriving DecidableEq, Repr

/-- The bias of the glass; `third` is 1/3, `half` is 1/2. -/
inductive Bias where
  | third
  | half
  deriving DecidableEq, Repr

/-- The frame period, in slow-clock periods. -/
inductive FramePeriod where
  | p1024
  | p768
  | p512
  | p384
  deriving DecidableEq, Repr

/-- One complete set of glass settings (8.1). -/
structure GlassSettings where
  duty : Duty
  bias : Bias
  period : FramePeriod
  contrast : Fin 4
  display : Bool
  deriving DecidableEq, Repr

/-- The power-on settings (8.1, R147). -/
def GlassSettings.powerOn : GlassSettings :=
  { duty := .quarter, bias := .third, period := .p512, contrast := 2, display := false }

/-- A blink phase: on or off, and base ticks to its next toggle, at least 1 (R135). -/
structure BlinkPhase where
  lit : Bool
  count : Nat
  deriving DecidableEq, Repr

/-- The drive a frame end fixes for the whole frame it begins (R133), with the frame's polarity (R132). -/
structure Drive where
  plane : Plane
  display : Bool
  slowLit : Bool
  fastLit : Bool
  reversed : Bool
  deriving DecidableEq, Repr

/-- The Glass Scanner. `hold` is the hold state: none is not held, and while held the timer runs with the base ticks
remaining, at least 1 (R139). The frame timer holds slow-clock periods to the frame end. -/
structure Scanner where
  settings : GlassSettings
  pendingSettings : Option GlassSettings
  shown : Plane
  frameTimer : Nat
  slow : BlinkPhase
  fast : BlinkPhase
  hold : Option Nat
  drive : Drive
  deriving DecidableEq, Repr

/-! ## Attention unit (chapter 9) -/

/-- An attention pair's presence and seen mark (R149, R151). -/
inductive Mark where
  | absent
  | unseen
  | seen
  deriving DecidableEq, Repr

/-- The four pairs of one channel slot (9.1). -/
structure SlotPairs where
  result : Mark
  limit : Mark
  quality : Mark
  oneShot : Mark
  deriving DecidableEq, Repr

/-- Why the last initialisation ran (9.1). -/
inductive RestartReason where
  | powerOn
  | resetLine
  | command
  deriving DecidableEq, Repr

/-- The present pair (DEVICE, RESTARTED), with its reason and seen mark. -/
structure RestartedPair where
  reason : RestartReason
  seen : Bool
  deriving DecidableEq, Repr

/-- The Attention Unit: the attention set and the cause mask. A mask bit set is a masked kind, numbered as R176
numbers cause kinds: 0 RESULT, 1 LIMIT, 2 QUALITY, 3 ONESHOT, 4 HOLD_EXPIRED, 5 RESTARTED. -/
structure Attention where
  channels : Vector SlotPairs 8
  holdExpired : Mark
  restarted : Option RestartedPair
  mask : BitVec 6
  deriving DecidableEq, Repr

/-- The four absent pairs of a slot. -/
def SlotPairs.empty : SlotPairs := { result := .absent, limit := .absent, quality := .absent, oneShot := .absent }

/-! ## Host port and clock unit (chapters 10 and 11) -/

/-- The port states (R164). -/
inductive PortState where
  | init
  | idle
  | busy
  | done
  deriving DecidableEq, Repr

/-- The command in progress: a waiting request (R168). -/
inductive Waiting where
  | measureNow (slot : Slot)
  | setGlass
  | restart
  deriving DecidableEq, Repr

/-- The result codes, in the order of their numbers (R175). -/
inductive ResultCode where
  | ok
  | cancelled
  | badFrame
  | unknownCommand
  | badLength
  | badParameter
  | staleHandle
  | noSlot
  | wrongState
  | pinTaken
  | duplicateTag
  | notFound
  | inUse
  | mismatch
  | badCurve
  | badLimits
  | segmentRange
  | duplicateSegment
  | segmentTaken
  | geometryConflict
  | held
  | notHeld
  | noResponse
  | notReady
  deriving DecidableEq, Repr

/-- One response (R169). -/
structure Response where
  code : ResultCode
  payload : List Byte
  deriving DecidableEq, Repr

/-- The CS line as the port knows it (R161). -/
inductive Select where
  /-- CS is high. -/
  | high
  /-- CS is low, with the status byte formed at its falling edge. -/
  | low (status : Byte)
  /-- CS is low in a transaction of which no byte is judged: a reset fell in it, or an edge of its first byte was taken
  while one was held. -/
  | dead
  deriving DecidableEq, Repr

/-- The Host Port. `select` is the level of CS with the status byte of the transaction in progress. `sdo` is the model's
record of what the part has shifted out in the transaction in progress, or in the last one while CS is high: the bytes
before the run of FFh that fills the rest of it (R161). -/
structure HostPort where
  port : PortState
  waiting : Option Waiting
  response : Option Response
  overrun : Bool
  powerOn : Bool
  select : Select
  sdo : List Byte
  deriving DecidableEq, Repr

/-- The source of the slow clock (R177). -/
inductive SlowSource where
  | crystal
  | internal
  deriving DecidableEq, Repr

/-- Those to which a base tick comes as a timer event of their own: each channel's interval timer and age, each blink
phase, the hold timer (R178), and the CSU itself for a RESTART in progress (R183). -/
inductive TickOwner where
  | interval (slot : Slot)
  | age (slot : Slot)
  | blink (rate : BlinkRate)
  | hold
  | restart
  deriving DecidableEq, Repr

/-- The Clock and Start-up Unit. `held`: a reset holds the part (R180). `reason`: what began the initialisation (R181).
`divider`: slow-clock periods to the next base tick (R178). `initCount`: slow-clock periods to the end of the
initialisation, present from the release to that end (R181). `fastClock`: the fast clock runs, which is exactly while
the CE holds its request (R179). `early`, a field of the model's own: the owners that have taken the coming base tick
already, each through the row of its expiry (notes/assumptions/7.md). -/
structure ClockUnit where
  held : Bool
  reason : RestartReason
  source : SlowSource
  divider : Nat
  initCount : Option Nat
  fastClock : Bool
  early : List TickOwner
  deriving DecidableEq, Repr

/-! ## The machine -/

/-- The whole state of the SR-2408, with two fields of the model's own: `pending`, the commands that wait, first in
first out, and `freeIx`, how many free values have been used (Config.freeByte). -/
structure State where
  ct : ChannelTable
  ms : Scheduler
  ce : Engine
  ft : FieldTable
  re : Renderer
  gs : Scanner
  au : Attention
  hp : HostPort
  csu : ClockUnit
  pending : List Instr
  freeIx : Nat
  deriving DecidableEq, Repr

/-- The machine stops with a fault at no command: the manual gives every command of every state an effect or says it
has none. So there is no fault to raise, and the type has no constructor. -/
inductive Fault where
  deriving DecidableEq, Repr

/-- Why a command has no meaning. -/
inductive Refusal where
  /-- Answered by exec alone, for a row of the table whose meaning has not been written (safe). No row is so now. -/
  | notModelled (mnemonic : String)
  deriving DecidableEq, Repr

/-! ## Values at the power-on reset -/

/-- Every slot FREE with generation 0, both maps empty (R20). -/
def ChannelTable.powerOn : ChannelTable :=
  { slots := Vector.replicate 8 { gen := 0, occupant := .none }
    tags := Vector.replicate 8 .none
    pins := Vector.replicate 8 .none }

/-- The due queue empty, mode RUN (R62). -/
def Scheduler.initial : Scheduler := { queue := [], mode := .run }

/-- The CE IDLE, no pin selected, the oscillator stopped (R40). -/
def Engine.idle : Engine := { conv := .none, mux := .none, oscillator := false }

/-- Every field slot FREE with generation 0, no address owned (R112). -/
def FieldTable.powerOn : FieldTable :=
  { slots := Vector.replicate 24 { gen := 0, occupant := .none }
    owners := Vector.replicate 132 .none }

/-- The render queue empty, every address OFF, the changed mark clear (R130). -/
def Renderer.initial : Renderer := { queue := [], plane := Plane.dark, changed := false }

/-- The GS at power-on: settings, dark planes, both phases on, frame timer 512, not held (R147). The frame in progress
drives nothing (R184); its polarity is a DESIGN CHOICE (notes/assumptions/3.md). -/
def Scanner.powerOn : Scanner :=
  { settings := GlassSettings.powerOn
    pendingSettings := .none
    shown := Plane.dark
    frameTimer := 512
    slow := { lit := true, count := 32 }
    fast := { lit := true, count := 8 }
    hold := .none
    drive := { plane := Plane.dark, display := false, slowLit := true, fastLit := true, reversed := false } }

/-- The attention set empty, every kind unmasked (R159). -/
def Attention.powerOn : Attention :=
  { channels := Vector.replicate 8 SlotPairs.empty, holdExpired := .absent, restarted := .none, mask := 0#6 }

/-- The port in INIT with nothing stored and both flags clear (R173); nothing shifted out but FFh (R180). That CS is high at
the power-on reset is a DESIGN CHOICE (notes/assumptions/3.md). -/
def HostPort.initial : HostPort :=
  { port := .init, waiting := .none, response := .none, overrun := false, powerOn := false, select := .high
    sdo := [] }

/-- The CSU while a power-on reset holds the part (R180). The sampled clock source before the first release, and the
divider's 512 while a reset is held (the manual says only that the divider starts at the release, R178), are a DESIGN
CHOICE (notes/assumptions/3.md). -/
def ClockUnit.powerOn : ClockUnit :=
  { held := true, reason := .powerOn, source := .crystal, divider := 512, initCount := .none, fastClock := false
    early := [] }

/-- The machine at the power-on reset, as R180 lists it unit by unit: the reset is asserted and holds the part. -/
def State.reset : State :=
  { ct := ChannelTable.powerOn
    ms := Scheduler.initial
    ce := Engine.idle
    ft := FieldTable.powerOn
    re := Renderer.initial
    gs := Scanner.powerOn
    au := Attention.powerOn
    hp := HostPort.initial
    csu := ClockUnit.powerOn
    pending := []
    freeIx := 0 }

/-! ## Replacing one unit -/

/-- The state with the Channel Table (and the records it carries) replaced. -/
def State.setCt (s : State) (x : ChannelTable) : State := { s with ct := x }
/-- The state with the scheduler replaced. -/
def State.setMs (s : State) (x : Scheduler) : State := { s with ms := x }
/-- The state with the engine replaced. -/
def State.setCe (s : State) (x : Engine) : State := { s with ce := x }
/-- The state with the field table replaced. -/
def State.setFt (s : State) (x : FieldTable) : State := { s with ft := x }
/-- The state with the renderer replaced. -/
def State.setRe (s : State) (x : Renderer) : State := { s with re := x }
/-- The state with the glass scanner replaced. -/
def State.setGs (s : State) (x : Scanner) : State := { s with gs := x }
/-- The state with the attention unit replaced. -/
def State.setAu (s : State) (x : Attention) : State := { s with au := x }
/-- The state with the host port replaced. -/
def State.setHp (s : State) (x : HostPort) : State := { s with hp := x }
/-- The state with the clock unit replaced. -/
def State.setCsu (s : State) (x : ClockUnit) : State := { s with csu := x }
/-- The state with another queue of waiting commands. -/
def State.setPending (s : State) (x : List Instr) : State := { s with pending := x }
/-- The state with `n` more free values used. -/
def State.useFree (s : State) (n : Nat) : State := { s with freeIx := s.freeIx + n }

end Sys2Proof.Machine
end

