-- ==== Sys2Proof/Machine/Operands.lean ====
section
/-! DEFINITION. The wire formats of R176: bytes and numbers, handles and segment addresses, the coded items, the
payloads of requests read into their fields (an unreadable payload is a BAD_PARAMETER of the owning rule's first
check), and the reports written out as bytes. -/

namespace Sys2Proof.Machine

/-! ## Bytes and numbers -/

/-- Byte `k` of a payload. -/
def byteAt (p : List Byte) (k : Nat) : Byte := p.getD k 0#8

/-- The two-byte number at `k`, most significant byte first (R176). -/
def word16 (p : List Byte) (k : Nat) : Nat := (byteAt p k).toNat * 256 + (byteAt p (k + 1)).toNat

/-- The three-byte number at `k`, most significant byte first (R176). -/
def word24 (p : List Byte) (k : Nat) : Nat := (byteAt p k).toNat * 65536 + word16 p (k + 1)

/-- A 16-bit word read in two's complement (R176). -/
def signed16 (w : Nat) : Int := if w < 32768 then (w : Int) else (w : Int) - 65536

/-- The two's complement mantissa at `k`. -/
def mantissaAt (p : List Byte) (k : Nat) : Int := signed16 (word16 p k)

/-- A number as two bytes, most significant first (R176). -/
def bytes16 (n : Nat) : List Byte := [BitVec.ofNat 8 (n / 256), BitVec.ofNat 8 n]

/-- A number as three bytes, most significant first (R176). -/
def bytes24 (n : Nat) : List Byte := BitVec.ofNat 8 (n / 65536) :: bytes16 n

/-- A mantissa as two bytes in two's complement (R176). -/
def mantissaBytes (m : Int) : List Byte := bytes16 (m % 65536).toNat

/-- Eight ON/OFF elements as a byte, the first in bit 7 (R176). -/
def packByte (e : List Bool) : Byte :=
  BitVec.ofNat 8 (((List.range 8).map fun k => (e.getD k false).toNat * 2 ^ (7 - k)).sum)

/-- `n` bytes of packed elements, unused trailing bits 0 (R176). -/
def packBytes (n : Nat) (e : List Bool) : List Byte :=
  (List.range n).map fun k => packByte ((e.drop (8 * k)).take 8)

/-- Element `k` of packed bytes that begin at byte `at0` of a payload, element 0 in bit 7 (R176). -/
def packedBit (p : List Byte) (at0 k : Nat) : Bool := (byteAt p (at0 + k / 8)).getLsbD (7 - k % 8)

/-- A report with its open bits filled: at each byte the bits that the manual gives, and free bits where `open'` has ones
(notes/assumptions/2.md). -/
def fillOpen (free : Nat → Byte) (given open' : List Byte) : List Byte :=
  (List.range given.length).map fun k => byteAt given k ||| (free k &&& byteAt open' k)

/-- The report of a record: what is sent at its open bits depends on the bytes that the manual gives, so a record that is
read again unchanged is reported identically (R18, R110). -/
def recordReport (given open' : List Byte) : List Byte := fillOpen (Config.reportByte given) given open'

/-! ## Handles and addresses -/

/-- A channel handle byte; nothing for a field handle byte (R2). -/
def chanHandle (b : Byte) : Option (Slot × Fin 16) :=
  if b.msb then none else some (Fin.ofNat 8 (b.toNat / 16), Fin.ofNat 16 b.toNat)

/-- A field handle byte; nothing for a channel handle byte or a slot code 24..31 (R95). -/
def fieldHandle (b : Byte) : Option (FieldIx × Fin 4) :=
  if b.msb = false then none
  else if h : b.toNat / 4 % 32 < 24 then some (⟨b.toNat / 4 % 32, h⟩, Fin.ofNat 4 b.toNat)
  else none

/-- The byte of a channel handle (R176). -/
def chanByte (i : Slot) (g : Fin 16) : Byte := BitVec.ofNat 8 (i.val * 16 + g.val)

/-- The byte of a field handle (R176). -/
def fieldByte (f : FieldIx) (g : Fin 4) : Byte := BitVec.ofNat 8 (128 + f.val * 4 + g.val)

/-- The address of a segment address byte; nothing when the segment line code is above 32 (R176). -/
def segAddr (b : Byte) : Option SegAddr :=
  if h : b.toNat % 64 ≤ 32 then
    some ⟨b.toNat / 64 * 33 + b.toNat % 64, by have := b.isLt; omega⟩
  else none

/-- The byte of a segment address (R176). -/
def addrByte (a : SegAddr) : Byte := BitVec.ofNat 8 (a.val / 33 * 64 + a.val % 33)

/-- The address exists under the duty (00_scope.md, "Segment addresses and geometry"). -/
def inGeometry (d : Duty) (a : SegAddr) : Bool :=
  match d with
  | .quarter => a.val % 33 ≤ 31
  | .third => a.val / 33 ≤ 2

/-- The addresses of a geometry, in address order. -/
def geometry (d : Duty) : List SegAddr := (List.finRange 132).filter fun a => inGeometry d a

/-! ## Coded items (R176) -/

/-- Yes/no items and flags. -/
def yesNo (b : Byte) : Option Bool :=
  if b = 0#8 then some false else if b = 1#8 then some true else none

/-- Method codes. -/
def methodCode (b : Byte) : Option Method :=
  if b = 0#8 then some .window else if b = 1#8 then some .period else none

/-- Blink mode codes. -/
def blinkModeCode (b : Byte) : Option BlinkMode :=
  match b.toNat with
  | 0 => some .none
  | 1 => some .always
  | 2 => some .onAlarm
  | 3 => some .onDoubt
  | _ => none

/-- Blink rate codes. -/
def blinkRateCode (b : Byte) : Option BlinkRate :=
  if b = 0#8 then some .slow else if b = 1#8 then some .fast else none

/-- Condition codes. -/
def conditionCode (b : Byte) : Option Condition :=
  match b.toNat with
  | 0 => some .high
  | 1 => some .low
  | 2 => some .alarm
  | 3 => some .doubt
  | 4 => some .stale
  | 5 => some .hostFlag
  | _ => none

/-- Duty codes. -/
def dutyCode (b : Byte) : Option Duty :=
  if b = 0#8 then some .quarter else if b = 1#8 then some .third else none

/-- Bias codes. -/
def biasCode (b : Byte) : Option Bias :=
  if b = 0#8 then some .third else if b = 1#8 then some .half else none

/-- Frame period codes. -/
def periodCode (b : Byte) : Option FramePeriod :=
  match b.toNat with
  | 0 => some .p1024
  | 1 => some .p768
  | 2 => some .p512
  | 3 => some .p384
  | _ => none

/-- The frame period in slow-clock periods. -/
def FramePeriod.periods : FramePeriod → Nat
  | .p1024 => 1024
  | .p768 => 768
  | .p512 => 512
  | .p384 => 384

/-- The byte of a method. -/
def Method.byte : Method → Byte
  | .window => 0#8
  | .period => 1#8

/-- The byte of a channel state. -/
def LiveState.byte : LiveState → Byte
  | .defined => 1#8
  | .active => 2#8
  | .suspended => 3#8

/-- The byte of an outcome. -/
def ResultOutcome.byte : ResultOutcome → Byte
  | .none => 0#8
  | .good => 1#8
  | .under => 2#8
  | .over => 3#8
  | .overflow => 4#8
  | .noSignal => 5#8
  | .noReference => 6#8

/-- The number of a limit state. -/
def LimitState.code : LimitState → Nat
  | .normal => 0
  | .low => 1
  | .high => 2

/-- The byte of a duty. -/
def Duty.byte : Duty → Byte
  | .quarter => 0#8
  | .third => 1#8

/-- The byte of a blink mode. -/
def BlinkMode.byte : BlinkMode → Byte
  | .none => 0#8
  | .always => 1#8
  | .onAlarm => 2#8
  | .onDoubt => 3#8

/-- The byte of a blink rate. -/
def rateByte : BlinkRate → Byte
  | .slow => 0#8
  | .fast => 1#8

/-- The byte of a condition. -/
def Condition.byte : Condition → Byte
  | .high => 0#8
  | .low => 1#8
  | .alarm => 2#8
  | .doubt => 3#8
  | .stale => 4#8
  | .hostFlag => 5#8

/-- The number of a segment state. -/
def SegState.code : SegState → Nat
  | .off => 0
  | .on => 1
  | .blinkSlow => 2
  | .blinkFast => 3

/-- The number of a restart reason. -/
def RestartReason.code : RestartReason → Nat
  | .powerOn => 1
  | .resetLine => 2
  | .command => 3

/-- The number of a port state (R162). -/
def PortState.code : PortState → Nat
  | .init => 0
  | .idle => 1
  | .busy => 2
  | .done => 3

/-- The number of a result code (R175). -/
def ResultCode.byte : ResultCode → Byte
  | .ok => 0x00#8
  | .cancelled => 0x01#8
  | .badFrame => 0x02#8
  | .unknownCommand => 0x03#8
  | .badLength => 0x04#8
  | .badParameter => 0x05#8
  | .staleHandle => 0x06#8
  | .noSlot => 0x07#8
  | .wrongState => 0x08#8
  | .pinTaken => 0x09#8
  | .duplicateTag => 0x0A#8
  | .notFound => 0x0B#8
  | .inUse => 0x0C#8
  | .mismatch => 0x0D#8
  | .badCurve => 0x0E#8
  | .badLimits => 0x0F#8
  | .segmentRange => 0x10#8
  | .duplicateSegment => 0x11#8
  | .segmentTaken => 0x12#8
  | .geometryConflict => 0x13#8
  | .held => 0x14#8
  | .notHeld => 0x15#8
  | .noResponse => 0x16#8
  | .notReady => 0x17#8

/-! ## Channel definitions (R1) -/

/-- A letter A to Z. -/
def isLetter (b : Byte) : Bool := 0x41 ≤ b.toNat && b.toNat ≤ 0x5A

/-- A letter A to Z or a digit 0 to 9. -/
def isTagChar (b : Byte) : Bool := isLetter b || (0x30 ≤ b.toNat && b.toNat ≤ 0x39)

/-- The padding character of a tag. -/
def space : Byte := 0x20#8

/-- The form of a tag: a letter first, then letters, digits and spaces, with nothing but spaces after a space (R1). -/
def Tag.wellFormed (t : Tag) : Bool :=
  isLetter t.c0 && (isTagChar t.c1 || t.c1 = space) && (isTagChar t.c2 || t.c2 = space)
    && (isTagChar t.c3 || t.c3 = space) && (t.c1 ≠ space || t.c2 = space) && (t.c2 ≠ space || t.c3 = space)

/-- The tag at bytes `k .. k + 3` of a payload, before any check. -/
def tagAt (p : List Byte) (k : Nat) : Tag :=
  { c0 := byteAt p k, c1 := byteAt p (k + 1), c2 := byteAt p (k + 2), c3 := byteAt p (k + 3) }

/-- The four bytes of a tag. -/
def Tag.bytes (t : Tag) : List Byte := [t.c0, t.c1, t.c2, t.c3]

/-- The counting length is one the method allows (R1). -/
def countLenAllowed (m : Method) (n : Nat) : Bool :=
  match m with
  | .window => 1 ≤ n && n ≤ 1024
  | .period => n = 1 || n = 2 || n = 4 || n = 8 || n = 16 || n = 32 || n = 64 || n = 128

/-- A reference as the host sends it: a channel handle, not yet accepted, and the ref max age. -/
structure RefReq where
  slot : Slot
  gen : Fin 16
  maxAge : Nat
  deriving DecidableEq, Repr

/-- A well-formed definition as the host sends it. -/
structure DefReq where
  tag : Tag
  pin : Pin
  method : Method
  countLen : Nat
  settle : Nat
  timeout : Nat
  interval : Nat
  ref : Option RefReq
  notify : Bool
  deriving DecidableEq, Repr

/-- The definition part a well-formed definition makes: the reference's slot is stored and its generation is not
kept (1.1). -/
def DefReq.toDef (q : DefReq) : ChannelDef :=
  { tag := q.tag, pin := q.pin, method := q.method, countLen := q.countLen, settle := q.settle, timeout := q.timeout
    interval := q.interval
    reference := q.ref.map fun r => { slot := r.slot, maxAge := r.maxAge }
    notify := q.notify }

/-- The reference of a definition: FFh is absent, with the ref max age ignored; a field handle, or a ref max age
outside 1..16383, is malformed (R1, R176). -/
def decodeRef (b : Byte) (maxAge : Nat) : Option (Option RefReq) :=
  if b = 0xFF#8 then some none
  else match chanHandle b with
    | none => none
    | some (slot, gen) =>
      if 1 ≤ maxAge ∧ maxAge ≤ 16383 then some (some { slot := slot, gen := gen, maxAge := maxAge }) else none

/-- The definition in the 17 bytes from `k` on, when it is well-formed by R1. -/
def decodeDef (p : List Byte) (k : Nat) : Option DefReq :=
  match methodCode (byteAt p (k + 5)), decodeRef (byteAt p (k + 13)) (word16 p (k + 14)), yesNo (byteAt p (k + 16)) with
  | some m, some ref, some notify =>
    if (tagAt p k).wellFormed ∧ (byteAt p (k + 4)).toNat ≤ 7 ∧ countLenAllowed m (word16 p (k + 6))
        ∧ 8 ≤ word16 p (k + 9) ∧ word16 p (k + 9) ≤ 1024 ∧ 1 ≤ word16 p (k + 11) ∧ word16 p (k + 11) ≤ 16383 then
      some { tag := tagAt p k, pin := Fin.ofNat 8 (byteAt p (k + 4)).toNat, method := m, countLen := word16 p (k + 6)
             settle := (byteAt p (k + 8)).toNat, timeout := word16 p (k + 9), interval := word16 p (k + 11)
             ref := ref, notify := notify }
    else none
  | _, _, _ => none

/-! ## Curves and limits -/

/-- The `c` breakpoints of a curve payload (R176). -/
def breakpoints (p : List Byte) (c : Nat) : List Breakpoint :=
  (List.range c).map fun i => { x := word24 p (3 + 5 * i), y := mantissaAt p (6 + 5 * i) }

/-- The mode and limit set of SET_LIMITS by step 1 of R89: nothing when malformed, `some none` for REMOVE. -/
def decodeLimits (p : List Byte) : Option (Option Limits) :=
  if byteAt p 1 = 1#8 then some none
  else if byteAt p 1 = 0#8 then
    match yesNo (byteAt p 2), yesNo (byteAt p 5) with
    | some hasLow, some hasHigh =>
      if word16 p 8 ≤ 1000 then
        some (some { low := if hasLow then some (mantissaAt p 3) else none
                     high := if hasHigh then some (mantissaAt p 6) else none
                     hysteresis := word16 p 8 })
      else none
    | _, _ => none
  else none

/-! ## Fields -/

/-- The segment list length a kind requires (R98). -/
def lengthAllowed (k : FieldKind) (n : Nat) : Bool :=
  match k with
  | .numeric width points sign _ => n = width * 7 + (if points then width else 0) + (if sign then 1 else 0)
  | .bar _ _ => 1 ≤ n && n ≤ 16
  | .indicator _ => 1 ≤ n && n ≤ 8
  | .pattern => 1 ≤ n && n ≤ 32

/-- The kind admits the source (R99). -/
def admits (k : FieldKind) (src : Source) : Bool :=
  match k, src with
  | .numeric .., _ => true
  | .bar .., _ => true
  | .indicator .hostFlag, .host => true
  | .indicator .hostFlag, _ => false
  | .indicator _, .host => false
  | .indicator _, _ => true
  | .pattern, .host => true
  | .pattern, _ => false

/-- NUMERIC parameters are well-formed (R97). -/
def numericOk (width decimals : Nat) : Bool := 1 ≤ width && width ≤ 6 && decimals ≤ 3 && decimals < width

/-- The kind and parameters of BIND_FIELD, when well-formed (R97). -/
def decodeKind (p : List Byte) : Option FieldKind :=
  match (byteAt p 0).toNat with
  | 0 =>
    match yesNo (byteAt p 7), yesNo (byteAt p 8) with
    | some points, some sign =>
      if numericOk (byteAt p 6).toNat (byteAt p 9).toNat then
        some (.numeric (byteAt p 6).toNat points sign (byteAt p 9).toNat)
      else none
    | _, _ => none
  | 1 => if mantissaAt p 6 < mantissaAt p 8 then some (.bar (mantissaAt p 6) (mantissaAt p 8)) else none
  | 2 => (conditionCode (byteAt p 6)).map .indicator
  | 3 => some .pattern
  | _ => none

/-- A source code and the handle byte read only for CHANNEL (6.6, R106). -/
def decodeSource (code handle : Byte) : Option Source :=
  match code.toNat with
  | 0 => some .host
  | 1 => some .detached
  | 2 => (chanHandle handle).map fun h => .channel h.1 h.2
  | _ => none

/-- The parameters common to every field (6.3). -/
structure Appearance where
  visible : Bool
  blinkMode : BlinkMode
  blinkRate : BlinkRate
  deriving DecidableEq, Repr

/-- Visible, blink mode and blink rate in the three bytes from 1 on, when well-formed (R97, R176). -/
def decodeAppearance (p : List Byte) : Option Appearance :=
  match yesNo (byteAt p 1), blinkModeCode (byteAt p 2), blinkRateCode (byteAt p 3) with
  | some v, some m, some r => some { visible := v, blinkMode := m, blinkRate := r }
  | _, _, _ => none

/-- What step 1 of R103 reads of BIND_FIELD, when it passes. -/
structure BindReq where
  kind : FieldKind
  look : Appearance
  source : Source
  deriving DecidableEq, Repr

/-- Step 1 of R103: well-formed parameters, a named source, and a kind that admits it. -/
def decodeBind (p : List Byte) : Option BindReq :=
  match decodeKind p, decodeAppearance p, decodeSource (byteAt p 4) (byteAt p 5) with
  | some k, some a, some src => if admits k src then some { kind := k, look := a, source := src } else none
  | _, _, _ => none

/-- The record's kind with the editable parameters of EDIT_FIELD's payload, when well-formed for that kind (R105). -/
def editKind (k : FieldKind) (p : List Byte) : Option FieldKind :=
  match k with
  | .numeric width points sign _ =>
    if numericOk width (byteAt p 4).toNat then some (.numeric width points sign (byteAt p 4).toNat) else none
  | .bar _ _ => if mantissaAt p 5 < mantissaAt p 7 then some (.bar (mantissaAt p 5) (mantissaAt p 7)) else none
  | .indicator _ => (conditionCode (byteAt p 9)).map .indicator
  | .pattern => some .pattern

/-- The data of SET_FIELD_VALUE by step 1 of R128: nothing when malformed, `some none` for ABSENT. -/
def decodeDatum (p : List Byte) : Option (Option HostDatum) :=
  match (byteAt p 1).toNat with
  | 0 => some (some (.value (mantissaAt p 2)))
  | 1 => (yesNo (byteAt p 2)).map fun b => some (.flag b)
  | 2 => some (some (.pattern ((List.range (byteAt p 2).toNat).map fun k => packedBit p 3 k)))
  | 3 => some none
  | _ => none

/-! ## Glass -/

/-- The set of SET_GLASS, when valid by R131: every code names a value, and bias 1/2 comes only with duty 1/3. -/
def decodeGlass (p : List Byte) : Option GlassSettings :=
  match dutyCode (byteAt p 0), biasCode (byteAt p 1), periodCode (byteAt p 2), yesNo (byteAt p 4) with
  | some d, some b, some f, some on =>
    if h : (byteAt p 3).toNat < 4 then
      if b = .half ∧ d = .quarter then none
      else some { duty := d, bias := b, period := f, contrast := ⟨(byteAt p 3).toNat, h⟩, display := on }
    else none
  | _, _, _, _ => none

/-! ## Request payload lengths (R167, R175) -/

/-- SET_CURVE's length, 3 + 5 × the count at byte 2. -/
def curveLengthOk (p : List Byte) : Bool := 3 ≤ p.length && p.length = 3 + 5 * (byteAt p 2).toNat

/-- BIND_FIELD's length, 11 + the count at byte 10. -/
def bindLengthOk (p : List Byte) : Bool := 11 ≤ p.length && p.length = 11 + (byteAt p 10).toNat

/-- SET_FIELD_VALUE's length by its form; a form that names none has no length to judge. -/
def valueLengthOk (p : List Byte) : Bool :=
  2 ≤ p.length && match (byteAt p 1).toNat with
    | 0 => p.length = 4
    | 1 => p.length = 3
    | 2 => 3 ≤ p.length && p.length = 3 + ((byteAt p 2).toNat + 7) / 8
    | 3 => p.length = 2
    | _ => true

/-! ## Reports -/

/-- The result part, 13 bytes (R176). -/
def resultPart (r : Result) : List Byte :=
  [r.outcome.byte,
   BitVec.ofNat 8 (r.raw.isSome.toNat + r.ratio.isSome.toNat * 2 + r.value.isSome.toNat * 4 + r.age.isSome.toNat * 8
     + (decide (r.freshness = some .stale)).toNat * 16 + r.limit.code * 32)]
    ++ bytes24 (r.raw.getD 0) ++ bytes16 (r.ratio.getD 0) ++ mantissaBytes (r.value.getD 0) ++ bytes16 (r.age.getD 0)
    ++ bytes16 r.seq

/-- The channel definition, 17 bytes, with the byte of its reference (R176). -/
def defBytes (d : ChannelDef) (refByte : Byte) : List Byte :=
  d.tag.bytes ++ [BitVec.ofNat 8 d.pin.val, d.method.byte] ++ bytes16 d.countLen ++ [BitVec.ofNat 8 d.settle]
    ++ bytes16 d.timeout ++ bytes16 d.interval ++ [refByte]
    ++ bytes16 ((d.reference.map RefLink.maxAge).getD 0) ++ [BitVec.ofNat 8 d.notify.toNat]

/-- The curve byte of a channel report: bit 7 present, bits 5..4 decimals, bits 3..0 the breakpoint count; bit 6 is open
(R176). -/
def curveByte (c : Option Curve) : Byte :=
  match c with
  | none => 0#8
  | some c => BitVec.ofNat 8 (128 + c.decimals * 16 + c.points.length)

/-- The limits byte of a channel report: bit 0 present, bit 1 low present, bit 2 high present; the other bits are open
(R176). -/
def limitsByte (l : Option Limits) : Byte :=
  match l with
  | none => 0#8
  | some l => BitVec.ofNat 8 (1 + l.low.isSome.toNat * 2 + l.high.isSome.toNat * 4)

/-- Low, high and hysteresis of a channel report, 0 where absent (R176, notes/assumptions/4.md). -/
def limitBytes (l : Option Limits) : List Byte :=
  mantissaBytes ((l.bind Limits.low).getD 0) ++ mantissaBytes ((l.bind Limits.high).getD 0)
    ++ bytes16 ((l.map Limits.hysteresis).getD 0)

/-- The schedule byte of a channel report: bit 0 queued, bit 1 one-shot pending, bit 2 late; the other bits are open
(R176). -/
def scheduleByte (queued : Bool) (sc : Schedule) : Byte :=
  BitVec.ofNat 8 (queued.toNat + sc.oneShot.toNat * 2 + sc.late.toNat * 4)

/-- The open bits of a channel report: bit 6 of the curve byte (byte 19), and bits 7..3 of the limits byte (20) and of the
schedule byte (42) (R176, notes/assumptions/2.md). -/
def channelOpen : List Byte := List.replicate 19 0#8 ++ [0x40#8, 0xF8#8] ++ List.replicate 21 0#8 ++ [0xF8#8]

/-- The kind code of a field report (R176). -/
def FieldKind.byte : FieldKind → Byte
  | .numeric .. => 0#8
  | .bar .. => 1#8
  | .indicator _ => 2#8
  | .pattern => 3#8

/-- The four kind parameter bytes of a field report (R110, R176); positions of another kind are open, given as 0 here. -/
def FieldKind.parameters : FieldKind → List Byte
  | .numeric width points sign decimals =>
    [BitVec.ofNat 8 width, BitVec.ofNat 8 points.toNat, BitVec.ofNat 8 sign.toNat, BitVec.ofNat 8 decimals]
  | .bar lo hi => mantissaBytes lo ++ mantissaBytes hi
  | .indicator c => [c.byte, 0#8, 0#8, 0#8]
  | .pattern => [0#8, 0#8, 0#8, 0#8]

/-- The open positions among the four parameter bytes (R110, notes/assumptions/2.md). -/
def FieldKind.openParameters : FieldKind → List Byte
  | .numeric .. => [0#8, 0#8, 0#8, 0#8]
  | .bar .. => [0#8, 0#8, 0#8, 0#8]
  | .indicator _ => [0#8, 0xFF#8, 0xFF#8, 0xFF#8]
  | .pattern => [0xFF#8, 0xFF#8, 0xFF#8, 0xFF#8]

/-- The source code and source handle byte of a field report; FFh where the source is no channel (R176,
notes/assumptions/4.md). -/
def sourceBytes (src : Source) : List Byte :=
  match src with
  | .host => [0#8, 0xFF#8]
  | .detached => [1#8, 0xFF#8]
  | .channel i g => [2#8, chanByte i g]

/-- The host data form and the four host data bytes of a field report (R176): a value in the first two, a flag in the
first, a pattern packed with unused bits 0. Bytes a value or a flag leaves over are open, given as 0 here; the positions
of absent host data are 0 (notes/assumptions/4.md). -/
def hostDataBytes (d : Option HostDatum) : List Byte :=
  match d with
  | some (.value m) => 0#8 :: mantissaBytes m ++ [0#8, 0#8]
  | some (.flag b) => [1#8, BitVec.ofNat 8 b.toNat, 0#8, 0#8, 0#8]
  | some (.pattern e) => 2#8 :: packBytes 4 e
  | none => [3#8, 0#8, 0#8, 0#8, 0#8]

/-- The open positions among the form and the host data bytes (R110, notes/assumptions/2.md). -/
def hostDataOpen (d : Option HostDatum) : List Byte :=
  match d with
  | some (.value _) => [0#8, 0#8, 0#8, 0xFF#8, 0xFF#8]
  | some (.flag _) => [0#8, 0#8, 0xFF#8, 0xFF#8, 0xFF#8]
  | some (.pattern _) => [0#8, 0#8, 0#8, 0#8, 0#8]
  | none => [0#8, 0#8, 0#8, 0#8, 0#8]

/-- The field report: the handle, 15 bytes, the count and the segment addresses (R110, R176). -/
def fieldReport (handle : Byte) (f : Field) : List Byte :=
  recordReport
    ([handle, f.kind.byte, BitVec.ofNat 8 f.visible.toNat, f.blinkMode.byte, rateByte f.blinkRate]
      ++ sourceBytes f.source ++ f.kind.parameters ++ hostDataBytes f.hostData
      ++ BitVec.ofNat 8 f.segs.length :: f.segs.map addrByte)
    (List.replicate 7 0#8 ++ f.kind.openParameters ++ hostDataOpen f.hostData)

/-- Four segment states as a byte, the first in bits 7..6 (R176). -/
def stateByte (st : List SegState) : Byte :=
  BitVec.ofNat 8 ((st.getD 0 .off).code * 64 + (st.getD 1 .off).code * 16 + (st.getD 2 .off).code * 4
    + (st.getD 3 .off).code)

/-- The states of a plane over a geometry, four to a byte in address order (R146, R176). -/
def planeBytes (d : Duty) (pl : Plane) : List Byte :=
  let st := (geometry d).map fun a => pl[a]
  (List.range ((st.length + 3) / 4)).map fun k => stateByte ((st.drop (4 * k)).take 4)

/-- A response frame: length, result code, payload and check byte (R169). -/
def responseFrame (code : ResultCode) (payload : List Byte) : List Byte :=
  let n : Byte := BitVec.ofNat 8 (payload.length + 1)
  n :: code.byte :: payload ++ [crc8 (n :: code.byte :: payload)]

end Sys2Proof.Machine
end

