-- ==== Sys2Proof/Machine/Flags.lean ====
section
/-! DEFINITION. The flags of the part: attention pairs with their seen marks, the ATTN condition (chapter 9), and the
status byte of the host port (R162). -/

namespace Sys2Proof.Machine

/-- The cause kinds a channel slot carries (9.1). -/
inductive Cause where
  | result
  | limit
  | quality
  | oneShot
  deriving DecidableEq, Repr

/-- The bit of a channel cause kind (R176). -/
def Cause.bit : Cause → Nat
  | .result => 0
  | .limit => 1
  | .quality => 2
  | .oneShot => 3

/-- The mark of a slot's pair of a kind. -/
def SlotPairs.get (m : SlotPairs) : Cause → Mark
  | .result => m.result
  | .limit => m.limit
  | .quality => m.quality
  | .oneShot => m.oneShot

/-- A raise of one of a slot's pairs: present, unseen (R150). -/
def SlotPairs.raise (m : SlotPairs) : Cause → SlotPairs
  | .result => { m with result := .unseen }
  | .limit => { m with limit := .unseen }
  | .quality => { m with quality := .unseen }
  | .oneShot => { m with oneShot := .unseen }

/-- Every mark of a slot changed alike. -/
def SlotPairs.map (g : Mark → Mark) (m : SlotPairs) : SlotPairs :=
  { result := g m.result, limit := g m.limit, quality := g m.quality, oneShot := g m.oneShot }

/-- The pair is in the set. -/
def Mark.present (m : Mark) : Bool := m ≠ .absent

/-- The pair is in the set with its seen mark at no. -/
def Mark.isUnseen (m : Mark) : Bool := m = .unseen

/-- A read marks a present pair seen (R152). -/
def Mark.see : Mark → Mark
  | .absent => .absent
  | .unseen => .seen
  | .seen => .seen

/-- An acknowledgement of the pair's kind removes a seen pair (R153). -/
def Mark.ack : Mark → Mark
  | .absent => .absent
  | .unseen => .unseen
  | .seen => .absent

/-- How many pairs a slot has in the set. -/
def SlotPairs.count (m : SlotPairs) : Nat :=
  m.result.present.toNat + m.limit.present.toNat + m.quality.present.toNat + m.oneShot.present.toNat

/-- The slot has at least one pair in the set. -/
def SlotPairs.any (m : SlotPairs) : Bool := m.count ≠ 0

/-- How many pairs the set holds (R149). -/
def Attention.count (a : Attention) : Nat :=
  (a.channels.toList.map SlotPairs.count).sum + a.holdExpired.present.toNat + a.restarted.isSome.toNat

/-- A raise for a channel slot (R150). -/
def Attention.raise (a : Attention) (i : Slot) (k : Cause) : Attention :=
  { a with channels := vput a.channels i (a.channels[i].raise k) }

/-- Raises for a channel slot, each when its condition holds, entered in one event (R150). -/
def Attention.raiseIf (a : Attention) (i : Slot) (k : Cause) (cond : Bool) : Attention :=
  if cond then a.raise i k else a

/-- The raise of HOLD_EXPIRED (R141, R150). -/
def Attention.raiseHold (a : Attention) : Attention := { a with holdExpired := .unseen }

/-- The raise of RESTARTED with its reason (R150). -/
def Attention.raiseRestarted (a : Attention) (r : RestartReason) : Attention :=
  { a with restarted := some { reason := r, seen := false } }

/-- The removal of every pair of a slot (R157). -/
def Attention.drop (a : Attention) (i : Slot) : Attention :=
  { a with channels := vput a.channels i SlotPairs.empty }

/-- The set emptied, the mask kept (R160). -/
def Attention.clear (a : Attention) : Attention := { Attention.powerOn with mask := a.mask }

/-- Every present pair marked seen (R152). -/
def Attention.see (a : Attention) : Attention :=
  { a with
    channels := a.channels.map (SlotPairs.map Mark.see)
    holdExpired := a.holdExpired.see
    restarted := a.restarted.map fun r => { r with seen := true } }

/-- The seen pairs of the selected kinds removed; bit `k` of the selector names cause kind `k` (R153, R176). -/
def Attention.ack (a : Attention) (sel : BitVec 6) : Attention :=
  { a with
    channels := a.channels.map fun m =>
      { result := if sel.getLsbD 0 then m.result.ack else m.result
        limit := if sel.getLsbD 1 then m.limit.ack else m.limit
        quality := if sel.getLsbD 2 then m.quality.ack else m.quality
        oneShot := if sel.getLsbD 3 then m.oneShot.ack else m.oneShot }
    holdExpired := if sel.getLsbD 4 then a.holdExpired.ack else a.holdExpired
    restarted := if sel.getLsbD 5 then a.restarted.filter (fun r => !r.seen) else a.restarted }

/-- The set holds a pair of an unmasked kind: exactly then ATTN is low (R156) and the status byte reports ATTN
pending (R162). -/
def Attention.low (a : Attention) : Bool :=
  a.channels.toList.any (fun m =>
      (m.result.present && !a.mask.getLsbD 0) || (m.limit.present && !a.mask.getLsbD 1)
        || (m.quality.present && !a.mask.getLsbD 2) || (m.oneShot.present && !a.mask.getLsbD 3))
    || (a.holdExpired.present && !a.mask.getLsbD 4) || (a.restarted.isSome && !a.mask.getLsbD 5)

/-- The slot byte of the attention report: present bits in 0..3, unseen bits in 4..7 (R176). -/
def SlotPairs.byte (m : SlotPairs) : Byte :=
  BitVec.ofNat 8 (m.result.present.toNat + m.limit.present.toNat * 2 + m.quality.present.toNat * 4
    + m.oneShot.present.toNat * 8 + m.result.isUnseen.toNat * 16 + m.limit.isUnseen.toNat * 32
    + m.quality.isUnseen.toNat * 64 + m.oneShot.isUnseen.toNat * 128)

/-- The device byte of the attention report: HOLD_EXPIRED in bits 0 and 1, RESTARTED in bits 2 and 3, the restart reason
in bits 5..4; bits 7..6 are open (R176). -/
def Attention.deviceByte (a : Attention) : Byte :=
  BitVec.ofNat 8 (a.holdExpired.present.toNat + a.holdExpired.isUnseen.toNat * 2 + a.restarted.isSome.toNat * 4
    + (a.restarted.any fun r => !r.seen).toNat * 8
    + ((a.restarted.map fun r => r.reason.code).getD 0) * 16)

/-- The mask byte of the attention report; bits 7..6 are open (R176). -/
def Attention.maskByte (a : Attention) : Byte := a.mask.setWidth 8

/-- How many free values an attention report uses. -/
def attentionReportFree : Nat := 2

/-- The attention report, 18 bytes (R152, R176); the generations are those of `slots`, and the open bits of its last two
bytes are the next free values (notes/assumptions/2.md). -/
def attentionReport (a : Attention) (slots : Vector ChannelSlot 8) (ix : Nat) : List Byte :=
  fillOpen (fun k => Config.freeByte (ix + (k - 16)))
    ((List.finRange 8).map (fun i => a.channels[i].byte)
      ++ (List.finRange 8).map (fun i => if a.channels[i].any then chanByte i slots[i].gen else 0xFF#8)
      ++ [a.deviceByte, a.maskByte])
    (List.replicate 16 0#8 ++ [0xC0#8, 0xC0#8])

/-- The status byte: marker 010, power-on flag, overrun, ATTN pending and port state (R162). -/
def statusByte (s : State) : Byte :=
  BitVec.ofNat 8 (0x40 + s.hp.powerOn.toNat * 16 + s.hp.overrun.toNat * 8 + s.au.low.toNat * 4 + s.hp.port.code)

/-- The status byte the part shifts out in the transaction in progress: the one formed at the falling edge of CS, which
falls in this very event when CS is high (R161). -/
def State.shownStatus (s : State) : Byte :=
  match s.hp.select with
  | .low b => b
  | .high => statusByte s
  | .dead => statusByte s

end Sys2Proof.Machine
end

