-- ==== Sys2Proof/Machine/Calibration.lean ====
section
/-! DEFINITION. The arithmetic of the Result Unit: ratios, curves and the limit state machine (chapters 4 and 5), each a
function of the record alone. -/

namespace Sys2Proof.Machine

/-- `num ÷ den` rounded to the nearest integer, ties away from zero (R71, R123). -/
def roundAway (num : Int) (den : Nat) : Int :=
  if 0 ≤ num then (((2 * num.toNat + den) / (2 * den) : Nat) : Int)
  else -(((2 * (-num).toNat + den) / (2 * den) : Nat) : Int)

/-- `num ÷ den` rounded to the nearest integer, ties upward (R69, R125); `den` is positive. -/
def roundUp (num : Int) (den : Nat) : Int := (2 * num + den) / (2 * den)

/-- H's raw count × 4096 ÷ the reference's raw count, rounded to nearest with ties upward (R69). -/
def ratioOf (raw refRaw : Nat) : Nat := (roundUp (raw * 4096 : Nat) refRaw).toNat

/-- The interpolation between two breakpoints, the whole expression rounded with ties away from zero (R71). -/
def interpolate (a b : Breakpoint) (x : Nat) : Int :=
  roundAway (a.y * (b.x - a.x : Nat) + (b.y - a.y) * (x - a.x : Nat)) (b.x - a.x)

/-- The curve from its breakpoint `a` on, for an input not below `a.x` (R71). -/
def applyFrom (a : Breakpoint) (rest : List Breakpoint) (x : Nat) : ResultOutcome × Int :=
  match rest with
  | [] => if x = a.x then (.good, a.y) else (.over, a.y)
  | b :: more =>
    if x = a.x then (.good, a.y)
    else if x < b.x then (.good, interpolate a b x)
    else applyFrom b more x

/-- The curve applied to an input: UNDER below its first x, OVER above its last, clamped to the end y (R71). -/
def Curve.apply (c : Curve) (x : Nat) : ResultOutcome × Int :=
  match c.points with
  | [] => (.good, 0)
  | a :: rest => if x < a.x then (.under, a.y) else applyFrom a rest x

/-- The x values of a breakpoint list are strictly increasing (R70, R75). -/
def increasing : List Breakpoint → Bool
  | [] => true
  | [_] => true
  | a :: b :: rest => a.x < b.x && increasing (b :: rest)

/-- The largest curve input of a channel: 65535 with a reference, 16,777,215 without (R70). -/
def maxInput (d : ChannelDef) : Nat := if d.reference.isSome then 65535 else 16777215

/-- The raw count a usable reference divides by, and nothing when the result is not usable within the ref max age
(R50, R68). -/
def Result.usable (r : Result) (maxAge : Nat) : Option Nat :=
  match r.raw, r.age with
  | some n, some a =>
    if (r.outcome = .good ∨ r.outcome = .under ∨ r.outcome = .over) ∧ n ≠ 0 ∧ a ≤ maxAge then some n else none
  | _, _ => none

/-- One move of the limit state machine from the state found, on a present value (R87). -/
def Limits.move (l : Limits) (from' : LimitState) (v : Int) : LimitState :=
  let above := l.high.any fun h => h < v
  let below := l.low.any fun b => v < b
  match from' with
  | .normal => if above then .high else if below then .low else .normal
  | .high =>
    if l.high.any (fun h => v ≤ h - l.hysteresis) then (if below then .low else .normal) else .high
  | .low =>
    if l.low.any (fun b => b + l.hysteresis ≤ v) then (if above then .high else .normal) else .low

/-- An evaluation of the limits at a result: held while the value is absent, NORMAL without limits (R87, R88). -/
def Result.evaluate (r : Result) (l : Option Limits) : Result :=
  match r.value, l with
  | none, _ => r
  | some _, none => { r with limit := .normal }
  | some v, some l => { r with limit := l.move r.limit v }

/-- The result part of outcome NONE with a result sequence (R63, R79). -/
def Result.cleared (seq : Nat) : Result :=
  { outcome := .none, raw := none, ratio := none, value := none, freshness := none, age := none, seq := seq
    limit := .normal }

/-- The scheduling part set clear (R10). -/
def Schedule.clear : Schedule :=
  { countdown := none, oneShot := false, notice := false, unwaited := false, late := false, refTried := false }

/-- A curve, or none, applied to a present curve input (R71, R72). -/
def Result.applyCurve (r : Result) (c : Option Curve) (x : Nat) : Result :=
  match c with
  | none => { r with outcome := .good, value := none }
  | some c => { r with outcome := (c.apply x).1, value := some (c.apply x).2 }

/-- How a conversion ended, with its raw count for a count ending (R33). -/
inductive Ending where
  | count (raw : Nat)
  | noSignal
  | overflow
  deriving DecidableEq, Repr

/-- A channel's ref max age, 0 without a reference. -/
def ChannelDef.refMaxAge (d : ChannelDef) : Nat := (d.reference.map RefLink.maxAge).getD 0

/-- Steps 2 to 6 of a completion (R64): raw count, ratio, outcome and value. `ref` is the reference's result part, read
as it stands at the completion (R68). -/
def Result.judge (r : Result) (c : Channel) (ref : Option Result) (e : Ending) : Result :=
  match e with
  | .noSignal => { r with outcome := .noSignal, raw := none, ratio := none, value := none }
  | .overflow => { r with outcome := .overflow, raw := none, ratio := none, value := none }
  | .count n =>
    if c.defn.reference.isNone then ({ r with raw := some n, ratio := none } : Result).applyCurve c.curve n
    else
      match ref.bind fun x => x.usable c.defn.refMaxAge with
      | none => { r with outcome := .noReference, raw := some n, ratio := none, value := none }
      | some d =>
        if ratioOf n d ≤ 65535 then
          ({ r with raw := some n, ratio := some (ratioOf n d) } : Result).applyCurve c.curve (ratioOf n d)
        else { r with outcome := .overflow, raw := some n, ratio := none, value := none }

/-- The result part a completion leaves: steps 1 to 7 of R64. -/
def Channel.completed (c : Channel) (ref : Option Result) (e : Ending) : Result :=
  (({ c.result with seq := (c.result.seq + 1) % 65536, age := some 0, freshness := some .fresh } : Result).judge c ref
    e).evaluate c.limits

/-- The stored curve input of a channel: the ratio with a reference, the raw count without (R71). -/
def Channel.input (c : Channel) : Option Nat :=
  if c.defn.reference.isSome then c.result.ratio else c.result.raw

/-- The result part recomputed from the stored input with the channel's curve, before the limits (R76). -/
def Channel.recomputed (c : Channel) : Result :=
  match c.result.outcome, c.input with
  | .good, some x => c.result.applyCurve c.curve x
  | .under, some x => c.result.applyCurve c.curve x
  | .over, some x => c.result.applyCurve c.curve x
  | _, _ => c.result

/-- The freshness the relation of R82 gives a present age under a stale limit. -/
def freshnessOf (staleLimit age : Nat) : Freshness := if staleLimit ≠ 0 ∧ staleLimit ≤ age then .stale else .fresh

end Sys2Proof.Machine
end

