-- ==== Sys2Proof/Machine/Ops.lean ====
section
/-! DEFINITION. The named operations the commands share: the host port's taking and answering, the handle checks, records
and queues, dirty marks, abandonment, and the RU's treatment of a completion. -/

namespace Sys2Proof.Machine

/-! ## The host port -/

/-- The response stored in the slot, the command in progress cleared, the port DONE (R164, R168). -/
def State.respond (s : State) (code : ResultCode) (payload : List Byte) : State :=
  s.setHp { s.hp with port := .done, waiting := none, response := some { code := code, payload := payload } }

/-- A waiting request that passed its checks: the slot empty, the port BUSY, the request kept (R167). -/
def State.wait (s : State) (w : Waiting) : State :=
  s.setHp { s.hp with port := .busy, waiting := some w, response := none }

/-- The end of a waiting request, when it is the command in progress: one response (R168). -/
def State.endWait (s : State) (w : Waiting) (code : ResultCode) (payload : List Byte) : State :=
  if s.hp.waiting = some w then s.respond code payload else s

/-- A frame is taken: the slot's contents are discarded and the overrun flag cleared (R166, R167, R171). -/
def State.take (s : State) : State := s.setHp { s.hp with response := none, overrun := false }

/-- A COMMAND frame is dropped in BUSY or INIT: the overrun flag is set and nothing else is touched (R165). -/
def State.dropFrame (s : State) : State := s.setHp { s.hp with overrun := true }

/-- No byte of the transaction that ends in this state is judged: a reset is held (R180), one fell in the transaction
(R161), or its first byte came, in whole or in part, while one was held (R163, R180; notes/assumptions/8.md). -/
def State.deaf (s : State) : Bool := s.csu.held || s.hp.select = .dead

/-- What the part has shifted out before the run of FFh in the transaction in progress; nothing when CS is high, and the
whole transaction is still to come (R161). -/
def State.sdoSoFar (s : State) : List Byte := if s.hp.select = .high then [] else s.hp.sdo

/-- The end of a transaction, CS rising: what the part has shifted out in it before the run of FFh is the status byte
formed at its beginning, then `more` (R161); when the port is deaf, nothing but FFh after what was out already
(R161, R180). -/
def State.shiftOut (s : State) (more : List Byte) : State :=
  s.setHp { s.hp with select := .high, sdo := if s.deaf then s.sdoSoFar else s.shownStatus :: more }

/-- A COMMAND frame that ends in this state: no byte is judged when the port is deaf (R161, R180), the frame is dropped in
INIT and BUSY (R165), and in IDLE and DONE it is taken and `act` done (R166, R167). -/
def commandFrame (act : State → State) (s : State) : State :=
  if s.deaf then s.shiftOut []
  else match s.hp.port with
    | .init => (s.shiftOut []).dropFrame
    | .busy => (s.shiftOut []).dropFrame
    | .idle => act (s.shiftOut []).take
    | .done => act (s.shiftOut []).take

/-- A COMMAND frame of good form with a listed code: BAD_LENGTH unless its payload has the length the table gives
(R167), and then the request. -/
def hostRequest (lengthOk : Bool) (act : State → State) (s : State) : State :=
  commandFrame (fun s => if lengthOk then act s else s.respond .badLength []) s

/-! ## Channel records -/

/-- The live channel in a slot. -/
def State.channel (s : State) (i : Slot) : Option Channel := s.ct.slots[i].occupant

/-- The live channel a handle is accepted for: its slot is live and its generation is the slot's (R2). -/
def State.accept (s : State) (i : Slot) (g : Fin 16) : Option Channel :=
  if s.ct.slots[i].gen = g then s.channel i else none

/-- The slot's record replaced by a live channel, its generation kept. -/
def State.putChannel (s : State) (i : Slot) (c : Channel) : State :=
  s.setCt { s.ct with slots := vput s.ct.slots i { s.ct.slots[i] with occupant := some c } }

/-- The live channel in a slot changed by `f`; nothing for a FREE slot. -/
def State.onRecord (s : State) (i : Slot) (f : Channel → Channel) : State :=
  match s.channel i with
  | none => s
  | some c => s.putChannel i (f c)

/-- The scheduling part of the live channel in a slot changed by `f`. -/
def State.onSched (s : State) (i : Slot) (f : Schedule → Schedule) : State :=
  s.onRecord i fun c => { c with sched := f c.sched }

/-- The lowest-numbered FREE channel slot (R10). -/
def State.freeSlot (s : State) : Option Slot := (List.finRange 8).find? fun i => (s.channel i).isNone

/-- The byte of a slot's handle at its current generation. -/
def State.handleByte (s : State) (i : Slot) : Byte := chanByte i s.ct.slots[i].gen

/-- A request that names a channel by handle: BAD_PARAMETER for a field handle byte or when the payload's own checks
fail, STALE_HANDLE for a handle that is not accepted, and otherwise the request on the channel (R2). -/
def onChannel (payloadOk : Bool) (b : Byte) (act : Slot → Channel → State → State) (s : State) : State :=
  match chanHandle b with
  | none => s.respond .badParameter []
  | some (i, g) =>
    if payloadOk then
      match s.accept i g with
      | none => s.respond .staleHandle []
      | some c => act i c s
    else s.respond .badParameter []

/-! ## The due queue -/

/-- The channel has an entry in the due queue: the field `queued` of the scheduling part (R46). -/
def State.queued (s : State) (i : Slot) : Bool := s.ms.queue.contains i

/-- The channel is converting (R44). -/
def State.converting (s : State) (i : Slot) : Bool := s.ce.conv.any fun v => v.channel = i

/-- The due queue replaced. -/
def State.setQueue (s : State) (q : List Slot) : State := s.setMs { s.ms with queue := q }

/-- A join at the tail of a channel neither queued nor converting (R46). -/
def State.joinTail (s : State) (i : Slot) : State :=
  if s.queued i || s.converting i then s else s.setQueue (s.ms.queue ++ [i])

/-- The channel's entry at the head: moved there, or placed there anew (R46). -/
def State.toHead (s : State) (i : Slot) : State := s.setQueue (i :: s.ms.queue.erase i)

/-- The channel's entry removed, the entries behind it keeping their order (R47, R49). -/
def State.leaveQueue (s : State) (i : Slot) : State := s.setQueue (s.ms.queue.erase i)

/-- A withdrawal other than by chaining: the entry leaves and the ref-tried mark is cleared (R47). -/
def State.withdraw (s : State) (i : Slot) : State :=
  (s.leaveQueue i).onSched i fun c => { c with refTried := false }

/-! ## The engine -/

/-- The engine stopped: oscillator, multiplexer, both timers, the context and the fast clock (R33, R36). -/
def State.stopEngine (s : State) : State :=
  (s.setCe Engine.idle).setCsu { s.csu with fastClock := false }

/-- Abandonment of the conversion in flight when it is of this channel (R35, R36). -/
def State.abandon (s : State) (i : Slot) : State := if s.converting i then s.stopEngine else s

/-! ## Fields -/

/-- The BOUND field in a slot. -/
def State.field (s : State) (f : FieldIx) : Option Field := s.ft.slots[f].occupant

/-- The BOUND field a handle is accepted for (R95). -/
def State.acceptField (s : State) (f : FieldIx) (g : Fin 4) : Option Field :=
  if s.ft.slots[f].gen = g then s.field f else none

/-- The slot's record replaced by a BOUND field, its generation kept. -/
def State.putField (s : State) (f : FieldIx) (d : Field) : State :=
  s.setFt { s.ft with slots := vput s.ft.slots f { s.ft.slots[f] with occupant := some d } }

/-- The lowest-numbered FREE field slot (R94). -/
def State.freeField (s : State) : Option FieldIx := (List.finRange 24).find? fun f => (s.field f).isNone

/-- The byte of a field slot's handle at its current generation. -/
def State.fieldHandleByte (s : State) (f : FieldIx) : Byte := fieldByte f s.ft.slots[f].gen

/-- A request that names a field by handle, with the checks in the order of R95. -/
def onField (payloadOk : Bool) (b : Byte) (act : FieldIx → Field → State → State) (s : State) : State :=
  match fieldHandle b with
  | none => s.respond .badParameter []
  | some (f, g) =>
    if payloadOk then
      match s.acceptField f g with
      | none => s.respond .staleHandle []
      | some d => act f d s
    else s.respond .badParameter []

/-- A field marked dirty: it joins the tail of the render queue, or keeps its place there (R114). -/
def State.markDirty (s : State) (f : FieldIx) : State :=
  if s.re.queue.contains f then s else s.setRe { s.re with queue := s.re.queue ++ [f] }

/-- Several fields marked dirty by one event, in the order given (R115). -/
def State.markAll (s : State) (fs : List FieldIx) : State := fs.foldl State.markDirty s

/-- The fields whose source is the handle of the channel in the slot, in ascending order (R115). -/
def State.fieldsOf (s : State) (i : Slot) : List FieldIx :=
  (List.finRange 24).filter fun f => (s.field f).any fun d => d.source = .channel i s.ct.slots[i].gen

/-- Every field whose source is the channel's handle marked dirty (R74). -/
def State.markFields (s : State) (i : Slot) : State := s.markAll (s.fieldsOf i)

/-- The states of addresses written into a plane, in order. -/
def Plane.write (p : Plane) (ws : List (SegAddr × SegState)) : Plane := ws.foldl (fun p w => vput p w.1 w.2) p

/-- The entries of addresses written into the ownership map, in order. -/
def setOwners (m : Vector (Option FieldIx) 132) (addrs : List SegAddr) (o : Option FieldIx) :
    Vector (Option FieldIx) 132 :=
  addrs.foldl (fun m a => vput m a o) m

/-! ## Results -/

/-- The raises of a change of a channel's record, and the record stored: QUALITY on `quality`, LIMIT when the limit
state differs from before (R73, R77, R88). -/
def State.putResult (s : State) (i : Slot) (c : Channel) (r : Result) (quality : Bool) : State :=
  (s.putChannel i { c with result := r }).setAu
    ((s.au.raiseIf i .limit (r.limit ≠ c.result.limit)).raiseIf i .quality quality)

/-- The result part of a channel's reference, as it stands (R68). -/
def State.refResult (s : State) (c : Channel) : Option Result :=
  (c.defn.reference.bind fun l => s.channel l.slot).map Channel.result

/-- The RU's treatment of a completion of the channel in a slot: result, raises and dirty marks (R64). -/
def State.treatResult (s : State) (i : Slot) (c : Channel) (e : Ending) : State :=
  let r := c.completed (s.refResult c) e
  let s1 := s.putResult i c r (r.outcome ≠ c.result.outcome || c.result.freshness ≠ some .fresh)
  let s2 := s1.setAu ((s1.au.raiseIf i .result c.defn.notify).raiseIf i .oneShot (c.sched.oneShot && c.sched.notice))
  s2.markFields i

end Sys2Proof.Machine
end

