-- ==== Sys2Proof/Machine/Arbiter.lean ====
section
/-! DEFINITION. The arbiter of the Conversion Engine (chapters 2 and 3): the start of a conversion, the pick with its chaining,
and the completion of a conversion with all the units' shares of it, the next pick among them. -/

namespace Sys2Proof.Machine

/-! ## The start of a conversion -/

/-- Gate units as slow-clock periods (00_scope.md, "Time units"). -/
def gateUnits (n : Nat) : Nat := n * 32

/-- Entering COUNTING: the WINDOW gate timer starts with the gate length; PERIOD waits for its opening edge with
`opened` no (R28, R30). -/
def Conversion.enterCounting (v : Conversion) : Conversion :=
  { v with
    phase := .counting
    gateTimer := match v.method with
      | .window => some (gateUnits v.countLen)
      | .period => none }

/-- The context a start fills from the channel's definition (R24, steps 1, 3 and 4). -/
def Conversion.start (i : Slot) (d : ChannelDef) : Conversion :=
  let v : Conversion :=
    { phase := .settling
      channel := i
      method := d.method
      countLen := d.countLen
      timeout := d.timeout
      settleRemaining := d.settle
      opened := false
      periodsRemaining := match d.method with
        | .window => 0
        | .period => d.countLen
      count := 0
      edgeTimer := gateUnits d.timeout
      gateTimer := none }
  if d.settle = 0 then v.enterCounting else v

/-- The CE takes a start: context, multiplexer and oscillator, and the fast clock requested for PERIOD (R22, R24,
R179). -/
def State.startEngine (s : State) (i : Slot) (d : ChannelDef) : State :=
  (s.setCe { conv := some (Conversion.start i d), mux := some d.pin, oscillator := true }).setCsu
    { s.csu with fastClock := d.method = .period }

/-- The MS starts a channel: its entry leaves the queue, its ref-tried mark is cleared and the CE takes the start
(R49). -/
def State.startChannel (s : State) (i : Slot) (c : Channel) : State :=
  ((s.leaveQueue i).putChannel i { c with sched := { c.sched with refTried := false } }).startEngine i c.defn

/-! ## The pick -/

/-- The entry is eligible: every entry in RUN, in PAUSED one whose one-shot is pending (R48). -/
def State.eligible (s : State) (i : Slot) : Bool :=
  match s.ms.mode with
  | .run => true
  | .paused => (s.channel i).any fun c => c.sched.oneShot

/-- Chaining: H's ref-tried mark set, H at the head, the reference's entry withdrawn and its conversion started (R51). -/
def State.chain (s : State) (h rf : Slot) (r : Channel) : State :=
  ((s.onSched h fun c => { c with refTried := true }).toHead h).startChannel rf r

/-- The pick's consideration of channel H: it is started, or its reference is chained (R49, R51). -/
def State.consider (s : State) (h : Slot) (c : Channel) : State :=
  match c.defn.reference with
  | none => s.startChannel h c
  | some l =>
    match s.channel l.slot with
    | none => s.startChannel h c
    | some r =>
      if (r.result.usable l.maxAge).isSome || c.sched.refTried || r.state = .suspended then s.startChannel h c
      else s.chain h l.slot r

/-- The entry the next pick considers: with the CE IDLE, the first eligible entry in queue order (R48). -/
def State.picked (s : State) : Option Slot :=
  if s.ce.conv.isSome then none else s.ms.queue.find? s.eligible

/-- The pick (R48): made within every event that can leave the CE IDLE with an eligible entry queued (R44, R53, R54, R57,
R61; notes/assumptions/9.md). Without both its conditions there is none. -/
def State.pick (s : State) : State :=
  match s.picked with
  | none => s
  | some h =>
    match s.channel h with
    | none => s
    | some c => s.consider h c

/-! ## Completions -/

/-- The MS's share of a completion up to its pick: the one-shot and late marks cleared, and a waiting MEASURE_NOW of the
channel answered with the result part (R53). -/
def State.completionShare (s : State) (i : Slot) (r : Result) : State :=
  (s.onSched i fun c => { c with oneShot := false, notice := false, unwaited := false, late := false }).endWait
    (.measureNow i) .ok (resultPart r)

/-- The completion of the conversion in flight, of the channel in slot `i`, with all it comprises, the next pick last
(R33, R53). A PERIOD start by that pick leaves the fast clock running (R179). That the pick may chain the very channel that
has just completed, and that a request taken behind the completion then abandons the new conversion of it (R35), is a
DESIGN CHOICE where R37 and R56 have that request find the engine IDLE or converting another channel
(notes/assumptions/24.md). -/
def State.complete (s : State) (i : Slot) (e : Ending) : State :=
  match s.channel i with
  | none => s.stopEngine.pick
  | some c => ((s.stopEngine.treatResult i c e).completionShare i (c.completed (s.refResult c) e)).pick

end Sys2Proof.Machine
end

