-- ==== Sys2Proof/Machine/Engine.lean ====
section
/-! DEFINITION. The Conversion Engine (chapter 2): sensor edges, fast-clock periods, and the four completing events. -/

namespace Sys2Proof.Machine

/-- The largest count the counter holds (R32). -/
def maxCount : Nat := 16777215

/-- The conversion in flight replaced. -/
def State.setConv (s : State) (v : Conversion) : State := s.setCe { s.ce with conv := some v }

/-- The edge timer restarted with the full signal timeout (R25). -/
def Conversion.restartEdge (v : Conversion) : Conversion := { v with edgeTimer := gateUnits v.timeout }

/-- A settling edge: one fewer to come, and the one that brings the rest to 0 enters COUNTING (R27). -/
def Conversion.settleEdge (v : Conversion) : Conversion :=
  let w := { v.restartEdge with settleRemaining := v.settleRemaining - 1 }
  if v.settleRemaining ≤ 1 then w.enterCounting else w

/-- The counter counts fast-clock periods now: PERIOD COUNTING with opened yes (R31). -/
def Conversion.countsFast (v : Conversion) : Bool := v.phase = .counting && v.method = .period && v.opened

/-- The counter counts sensor edges now: WINDOW COUNTING (R29). -/
def Conversion.countsEdges (v : Conversion) : Bool := v.phase = .counting && v.method = .window

/-- A counted event: one more, or the OVERFLOW ending when that would carry the count past its limit (R32). -/
def State.countOne (s : State) (v : Conversion) : State :=
  if v.count + 1 > maxCount then s.complete v.channel .overflow else s.setConv { v with count := v.count + 1 }

/-- A rising edge in PERIOD COUNTING: the opening edge, an edge that lowers periods remaining, or the closing edge
(R30, R31). -/
def State.periodEdge (s : State) (v : Conversion) : State :=
  if v.opened then
    if v.periodsRemaining ≤ 1 then s.complete v.channel (.count v.count)
    else s.setConv { v.restartEdge with periodsRemaining := v.periodsRemaining - 1 }
  else s.setConv { v.restartEdge with opened := true }

/-- A rising edge of the sensor oscillator (R25, R27, R29, R30, R31). In IDLE the oscillator is stopped and an edge has
no effect (R22, R37). -/
def State.sensorEdge (s : State) : State :=
  match s.ce.conv with
  | none => s
  | some v =>
    match v.phase, v.method with
    | .settling, _ => s.setConv v.settleEdge
    | .counting, .window => s.countOne v.restartEdge
    | .counting, .period => s.periodEdge v

/-- SENSOR_EDGE (R27). -/
def execSensorEdge (s : State) : Host.Outcome State Fault Refusal := .next s.sensorEdge

/-- A fast-clock period (R31, R32). -/
def State.fastPeriod (s : State) : State :=
  match s.ce.conv with
  | none => s
  | some v => if v.countsFast then s.countOne v else s

/-- FAST_CLOCK_PERIOD (R31). -/
def execFastClockPeriod (s : State) : Host.Outcome State Fault Refusal := .next s.fastPeriod

/-- The expiry of the gate timer, which runs in WINDOW COUNTING only (R28, R29). -/
def State.gateExpiry (s : State) : State :=
  match s.ce.conv with
  | none => s
  | some v => if v.countsEdges then s.complete v.channel (.count v.count) else s

/-- GATE_EXPIRY (R29). -/
def execGateExpiry (s : State) : Host.Outcome State Fault Refusal := .next s.gateExpiry

/-- The expiry of the edge timer: NO_SIGNAL, whatever progress the conversion has made (R26). -/
def State.edgeExpiry (s : State) : State :=
  match s.ce.conv with
  | none => s
  | some v => s.complete v.channel .noSignal

/-- EDGE_TIMER_EXPIRY (R26). -/
def execEdgeTimerExpiry (s : State) : Host.Outcome State Fault Refusal := .next s.edgeExpiry

/-- A counted event that would carry the count past its limit (R32); with a lower count there is no such event. -/
def State.counterOverflow (s : State) : State :=
  match s.ce.conv with
  | none => s
  | some v =>
    if (v.countsFast || v.countsEdges) && v.count + 1 > maxCount then s.complete v.channel .overflow else s

/-- COUNTER_OVERFLOW (R32). -/
def execCounterOverflow (s : State) : Host.Outcome State Fault Refusal := .next s.counterOverflow

end Sys2Proof.Machine
end

