-- ==== Sys2Proof/Machine/Clock.lean ====
section
/-! DEFINITION. What the part does of itself while no command waits: the events that are due, one at a time, and else one
period of the slow clock (chapter 11; notes/assumptions/5.md). -/

namespace Sys2Proof.Machine

/-- An event of the part that is due when its condition holds. -/
def dueIf (due : Bool) (e : Instr) : List Instr := if due then [e] else []

/-- The events due now, in the order the model takes them (DESIGN CHOICE, notes/assumptions/5.md: the manual leaves the
order of events that fall together open). -/
def State.dueEvents (s : State) : List Instr :=
  List.flatten
    [dueIf (s.ce.conv.any fun v => v.countsEdges && v.gateTimer = some 0) .gateExpiry,
     dueIf (s.ce.conv.any fun v => v.edgeTimer = 0) .edgeTimerExpiry,
     dueIf (s.hp.port = .init && s.csu.initCount = some 0) .initialisationEnd,
     dueIf (s.gs.frameTimer = 0) .frameEnd,
     dueIf (s.csu.divider = 0) .baseTick,
     dueIf s.picked.isSome .pick,
     dueIf (!s.re.queue.isEmpty) .render]

/-- The part's own next event; none while a reset holds it (R180) and none when nothing is due. -/
def State.ownEvent (s : State) : Option Instr := if s.csu.held then none else s.dueEvents.head?

/-- One slow-clock period at the timers of a conversion (R25, R28). -/
def Conversion.slowPeriod (v : Conversion) : Conversion :=
  { v with edgeTimer := v.edgeTimer - 1, gateTimer := v.gateTimer.map fun n => n - 1 }

/-- One period of the slow clock: the base-tick divider, the initialisation count, the frame timer and the engine's
timers count it (R136, R178, R181). While a reset is held the slow clock is stopped (R180). -/
def State.slowPeriod (s : State) : State :=
  if s.csu.held then s
  else
    ((s.setCsu { s.csu with divider := s.csu.divider - 1, initCount := s.csu.initCount.map fun n => n - 1 }).setGs
      { s.gs with frameTimer := s.gs.frameTimer - 1 }).setCe { s.ce with conv := s.ce.conv.map Conversion.slowPeriod }

end Sys2Proof.Machine
end

