-- ==== Sys2Proof/Machine/AttentionRequests.lean ====
section
/-! DEFINITION. The requests of the Attention Unit (chapter 9): READ_ATTENTION, ACK_ATTENTION and SET_ATTENTION_MASK. -/

namespace Sys2Proof.Machine

/-- READ_ATTENTION once taken: the report of the set as it stands, then every present pair marked seen (R152). -/
def doReadAttention (s : State) : State :=
  ((s.respond .ok (attentionReport s.au s.ct.slots s.freeIx)).setAu s.au.see).useFree attentionReportFree

/-- READ_ATTENTION (R152). -/
def execReadAttention (payload : List Byte) (s : State) : Host.Outcome State Fault Refusal :=
  .next (hostRequest (payload.length = 0) doReadAttention s)

/-- A selector or mask byte with bits 6 and 7 clear, as its six bits (R176). -/
def causeBits (b : Byte) : Option (BitVec 6) := if b.toNat < 64 then some (b.setWidth 6) else none

/-- ACK_ATTENTION once taken: the counts removed and remaining (R153). -/
def doAck (p : List Byte) (s : State) : State :=
  match causeBits (byteAt p 0) with
  | none => s.respond .badParameter []
  | some sel =>
    (s.setAu (s.au.ack sel)).respond .ok
      [BitVec.ofNat 8 (s.au.count - (s.au.ack sel).count), BitVec.ofNat 8 (s.au.ack sel).count]

/-- ACK_ATTENTION (R153). -/
def execAckAttention (payload : List Byte) (s : State) : Host.Outcome State Fault Refusal :=
  .next (hostRequest (payload.length = 1) (doAck payload) s)

/-- SET_ATTENTION_MASK once taken (R155). -/
def doSetMask (p : List Byte) (s : State) : State :=
  match causeBits (byteAt p 0) with
  | none => s.respond .badParameter []
  | some m => (s.setAu { s.au with mask := m }).respond .ok []

/-- SET_ATTENTION_MASK (R155). -/
def execSetAttentionMask (payload : List Byte) (s : State) : Host.Outcome State Fault Refusal :=
  .next (hostRequest (payload.length = 1) (doSetMask payload) s)

end Sys2Proof.Machine
end

