-- ==== Sys2Proof/Machine/Channels.lean ====
section
/-! DEFINITION. The requests of the Channel Table (chapter 1): DEFINE_CHANNEL, MODIFY_CHANNEL, RETIRE_CHANNEL,
READ_CHANNEL and FIND_CHANNEL. -/

namespace Sys2Proof.Machine

/-- The reference check of R7 on a supplied definition; `target` is the channel being modified. Nothing is a pass. -/
def State.refCheck (s : State) (target : Option Slot) (q : DefReq) : Option ResultCode :=
  match q.ref with
  | none => none
  | some r =>
    match s.accept r.slot r.gen with
    | none => some .staleHandle
    | some c =>
      if target = some r.slot ∨ c.defn.reference.isSome ∨ c.defn.method ≠ q.method ∨ c.defn.countLen ≠ q.countLen then
        some .mismatch
      else none

/-- The slot of a tag's entry in the tag map (R5). -/
def State.tagSlot (s : State) (t : Tag) : Option Slot := (List.finRange 8).find? fun i => s.ct.tags[i] = some t

/-- The channel has a referrer: a live channel whose reference names its slot (R8). -/
def State.hasReferrer (s : State) (i : Slot) : Bool :=
  (List.finRange 8).any fun j => (s.channel j).any fun c => c.defn.reference.any fun l => l.slot = i

/-! ## DEFINE_CHANNEL -/

/-- Steps 3 to 5 of R9 on a well-formed definition. Nothing is a pass. -/
def State.defineCheck (s : State) (q : DefReq) : Option ResultCode :=
  if (s.tagSlot q.tag).isSome then some .duplicateTag
  else if s.ct.pins[q.pin].isSome then some .pinTaken
  else s.refCheck none q

/-- The record DEFINE_CHANNEL makes (R10). -/
def newChannel (q : DefReq) : Channel :=
  { state := .defined, defn := q.toDef, curve := none, limits := none, staleLimit := 0, result := Result.cleared 0
    sched := Schedule.clear }

/-- The channel entered in a slot: record, tag and pin (R10). -/
def State.enterChannel (s : State) (i : Slot) (q : DefReq) : State :=
  let s1 := s.putChannel i (newChannel q)
  s1.setCt { s1.ct with tags := vput s1.ct.tags i (some q.tag), pins := vput s1.ct.pins q.pin (some i) }

/-- DEFINE_CHANNEL once taken, with its checks in the order of R9. -/
def doDefine (p : List Byte) (s : State) : State :=
  match decodeDef p 0 with
  | none => s.respond .badParameter []
  | some q =>
    match s.freeSlot with
    | none => s.respond .noSlot []
    | some i =>
      match s.defineCheck q with
      | some code => s.respond code []
      | none => (s.enterChannel i q).respond .ok [s.handleByte i]

/-- DEFINE_CHANNEL (R9, R10). -/
def execDefineChannel (payload : List Byte) (s : State) : Host.Outcome State Fault Refusal :=
  .next (hostRequest (payload.length = 17) (doDefine payload) s)

/-! ## MODIFY_CHANNEL -/

/-- Steps 3 to 8 of R11 on an accepted channel. Nothing is a pass. -/
def State.modifyCheck (s : State) (i : Slot) (c : Channel) (q : DefReq) : Option ResultCode :=
  if c.state = .active then some .wrongState
  else if (s.tagSlot q.tag).any fun j => j ≠ i then some .duplicateTag
  else if s.ct.pins[q.pin].any fun j => j ≠ i then some .pinTaken
  else match s.refCheck (some i) q with
    | some code => some code
    | none =>
      if s.hasReferrer i ∧ (q.method ≠ c.defn.method ∨ q.countLen ≠ c.defn.countLen ∨ q.ref.isSome) then some .mismatch
      else if c.curve.isSome ∧ q.ref.isSome ≠ c.defn.reference.isSome then some .mismatch
      else none

/-- Steps 2, 3 and 4 of R13 on the channel's record: a clear scheduling part, the new definition and a cleared result
part; the state, the curve, the limits, the stale limit and the result sequence are kept (R12). -/
def Channel.modified (c : Channel) (q : DefReq) : Channel :=
  { c with sched := Schedule.clear, defn := q.toDef, result := Result.cleared c.result.seq }

/-- The tag map entry and the pin entries of a modified channel, in one step (R5, R6). -/
def ChannelTable.moved (t : ChannelTable) (i : Slot) (old : Pin) (q : DefReq) : ChannelTable :=
  { t with tags := vput t.tags i (some q.tag), pins := vput (vput t.pins old none) q.pin (some i) }

/-- The effects of a successful MODIFY_CHANNEL, in the order of R13. -/
def State.modifyChannel (s : State) (i : Slot) (c : Channel) (q : DefReq) : State :=
  let s1 := (s.abandon i).leaveQueue i
  let s2 := s1.putChannel i (c.modified q)
  let s3 := s2.setCt (s2.ct.moved i c.defn.pin q)
  let s4 := s3.setAu ((s3.au.raiseIf i .quality (c.result.outcome ≠ .none)).raiseIf i .limit (c.result.limit ≠ .normal))
  s4.markFields i

/-- MODIFY_CHANNEL once taken, with its checks in the order of R11, and the pick behind an abandonment (R48). That this
pick may chain the channel itself, just modified, for a referrer that is queued, where R14 leaves no conversion of it in
flight, is a DESIGN CHOICE (notes/assumptions/22.md). -/
def doModify (p : List Byte) (s : State) : State :=
  match decodeDef p 1 with
  | none => s.respond .badParameter []
  | some q =>
    onChannel true (byteAt p 0) (fun i c s =>
      match s.modifyCheck i c q with
      | some code => s.respond code []
      | none => ((s.modifyChannel i c q).respond .ok []).pick) s

/-- MODIFY_CHANNEL (R11, R12, R13). -/
def execModifyChannel (payload : List Byte) (s : State) : Host.Outcome State Fault Refusal :=
  .next (hostRequest (payload.length = 18) (doModify payload) s)

/-! ## RETIRE_CHANNEL -/

/-- The fields whose source is a channel handle naming the slot, in ascending order (R108). -/
def State.fieldsNaming (s : State) (i : Slot) : List FieldIx :=
  (List.finRange 24).filter fun f => (s.field f).any fun d =>
    match d.source with
    | .channel j _ => j = i
    | _ => false

/-- A field slot with its field's source set to DETACHED, when that source names the retired slot (R108). -/
def FieldSlot.detach (i : Slot) (sl : FieldSlot) : FieldSlot :=
  { sl with
    occupant := sl.occupant.map fun d =>
      match d.source with
      | .channel j _ => if j = i then { d with source := .detached } else d
      | _ => d }

/-- Detachment: every field whose source names the slot becomes DETACHED and is marked dirty (R108). -/
def State.detach (s : State) (i : Slot) : State :=
  (s.setFt { s.ft with slots := s.ft.slots.map (FieldSlot.detach i) }).markAll (s.fieldsNaming i)

/-- The slot FREE with its generation advanced, its tag entry removed and its pin returned (R16, step 6). -/
def ChannelTable.freed (t : ChannelTable) (i : Slot) (pin : Pin) : ChannelTable :=
  { slots := vput t.slots i { gen := t.slots[i].gen + 1, occupant := none }
    tags := vput t.tags i none
    pins := vput t.pins pin none }

/-- The effects of a successful RETIRE_CHANNEL, in the order of R16. Steps 2 and 3 discard parts of the record that
step 6 frees with its slot. -/
def State.retireChannel (s : State) (i : Slot) (c : Channel) : State :=
  let s1 := (s.abandon i).leaveQueue i
  let s2 := s1.setAu (s1.au.drop i)
  let s3 := s2.detach i
  s3.setCt (s3.ct.freed i c.defn.pin)

/-- RETIRE_CHANNEL once taken (R15, R16), with the pick behind an abandonment (R48). -/
def doRetire (p : List Byte) (s : State) : State :=
  onChannel true (byteAt p 0) (fun i c s =>
    if s.hasReferrer i then s.respond .inUse [] else ((s.retireChannel i c).respond .ok []).pick) s

/-- RETIRE_CHANNEL (R15, R16). -/
def execRetireChannel (payload : List Byte) (s : State) : Host.Outcome State Fault Refusal :=
  .next (hostRequest (payload.length = 1) (doRetire payload) s)

/-! ## Reading the table -/

/-- The reference byte of a channel report: the referenced slot's handle at its current generation, or FFh (R176). -/
def State.refByte (s : State) (d : ChannelDef) : Byte :=
  match d.reference with
  | none => 0xFF#8
  | some l => s.handleByte l.slot

/-- The channel report, 43 bytes (R18, R176). -/
def State.channelReport (s : State) (i : Slot) (c : Channel) : List Byte :=
  recordReport
    ([s.handleByte i, c.state.byte] ++ defBytes c.defn (s.refByte c.defn)
      ++ [curveByte c.curve, limitsByte c.limits] ++ limitBytes c.limits ++ bytes16 c.staleLimit
      ++ resultPart c.result ++ [scheduleByte (s.queued i) c.sched])
    channelOpen

/-- READ_CHANNEL once taken (R18). -/
def doReadChannel (p : List Byte) (s : State) : State :=
  onChannel true (byteAt p 0) (fun i c s => s.respond .ok (s.channelReport i c)) s

/-- READ_CHANNEL (R18). -/
def execReadChannel (payload : List Byte) (s : State) : Host.Outcome State Fault Refusal :=
  .next (hostRequest (payload.length = 1) (doReadChannel payload) s)

/-- FIND_CHANNEL once taken (R19). -/
def doFind (p : List Byte) (s : State) : State :=
  if (tagAt p 0).wellFormed then
    match s.tagSlot (tagAt p 0) with
    | none => s.respond .notFound []
    | some i => s.respond .ok [s.handleByte i]
  else s.respond .badParameter []

/-- FIND_CHANNEL (R19). -/
def execFindChannel (payload : List Byte) (s : State) : Host.Outcome State Fault Refusal :=
  .next (hostRequest (payload.length = 4) (doFind payload) s)

end Sys2Proof.Machine
end

