-- ==== Sys2Proof/Machine/Fields.lean ====
section
/-! DEFINITION. The requests of the Field Table (chapter 6): BIND_FIELD, EDIT_FIELD, RETARGET_FIELD, RETIRE_FIELD,
READ_FIELD and READ_OWNER. -/

namespace Sys2Proof.Machine

/-- The source is one that can be set now: a channel source's handle is accepted (R99). -/
def State.sourceLive (s : State) (src : Source) : Bool :=
  match src with
  | .channel i g => (s.accept i g).isSome
  | .host => true
  | .detached => true

/-! ## BIND_FIELD -/

/-- The address a segment address byte names in the current geometry (R103, step 5). -/
def State.addrIn (s : State) (b : Byte) : Option SegAddr :=
  match segAddr b with
  | none => none
  | some a => if inGeometry s.gs.settings.duty a then some a else none

/-- The position of the first entry whose address equals that of an earlier entry (R103, step 6). -/
def firstDuplicate (addrs : List SegAddr) : Option Nat :=
  (List.range addrs.length).find? fun k => (addrs.take k).contains (addrs.getD k 0)

/-- The position and owner of the first entry whose address has an owner (R103, step 7). -/
def State.firstOwned (s : State) (addrs : List SegAddr) : Option (Nat × FieldIx) :=
  addrs.zipIdx.findSome? fun ak => s.ft.owners[ak.1].map fun f => (ak.2, f)

/-- The field a bind makes: host data absent (R104). -/
def BindReq.toField (q : BindReq) (segs : List SegAddr) : Field :=
  { kind := q.kind, visible := q.look.visible, blinkMode := q.look.blinkMode, blinkRate := q.look.blinkRate
    source := q.source, hostData := none, segs := segs }

/-- The effects of a successful BIND_FIELD: the slot BOUND, its addresses claimed, the field marked dirty (R104). -/
def State.bindField (s : State) (f : FieldIx) (d : Field) : State :=
  let s1 := s.putField f d
  (s1.setFt { s1.ft with owners := setOwners s1.ft.owners d.segs (some f) }).markDirty f

/-- Steps 5 to 7 of R103 and the bind, on the address bytes of the list. -/
def State.bindList (s : State) (f : FieldIx) (q : BindReq) (list : List Byte) : State :=
  match list.findIdx? (fun b => (s.addrIn b).isNone) with
  | some k => s.respond .segmentRange [BitVec.ofNat 8 k]
  | none =>
    let addrs := list.filterMap s.addrIn
    match firstDuplicate addrs with
    | some k => s.respond .duplicateSegment [BitVec.ofNat 8 k]
    | none =>
      match s.firstOwned addrs with
      | some (k, o) => s.respond .segmentTaken [BitVec.ofNat 8 k, s.fieldHandleByte o]
      | none => (s.bindField f (q.toField addrs)).respond .ok [s.fieldHandleByte f]

/-- BIND_FIELD once taken, with its checks in the order of R103. -/
def doBind (p : List Byte) (s : State) : State :=
  match decodeBind p with
  | none => s.respond .badParameter []
  | some q =>
    if !lengthAllowed q.kind (byteAt p 10).toNat then s.respond .badLength []
    else if !s.sourceLive q.source then s.respond .staleHandle []
    else match s.freeField with
      | none => s.respond .noSlot []
      | some f => s.bindList f q (p.drop 11)

/-- BIND_FIELD (R103, R104). -/
def execBindField (payload : List Byte) (s : State) : Host.Outcome State Fault Refusal :=
  .next (hostRequest (bindLengthOk payload) (doBind payload) s)

/-! ## Changing a bound field -/

/-- The record EDIT_FIELD leaves: appearance and editable parameters replaced, all else kept (R105). -/
def Field.edited (d : Field) (k : FieldKind) (a : Appearance) : Field :=
  { d with kind := k, visible := a.visible, blinkMode := a.blinkMode, blinkRate := a.blinkRate }

/-- EDIT_FIELD on an accepted field: the kind's own parameters, the indicator's condition against the source, and the
edit (R105, steps 2 and 3). -/
def doEditAccepted (p : List Byte) (a : Appearance) (f : FieldIx) (d : Field) (s : State) : State :=
  match editKind d.kind p with
  | none => s.respond .badParameter []
  | some k =>
    if admits k d.source then ((s.putField f (d.edited k a)).markDirty f).respond .ok []
    else s.respond .wrongState []

/-- EDIT_FIELD once taken, with its checks in the order of R105. -/
def doEdit (p : List Byte) (s : State) : State :=
  match decodeAppearance p with
  | none => s.respond .badParameter []
  | some a => onField true (byteAt p 0) (doEditAccepted p a) s

/-- EDIT_FIELD (R105). -/
def execEditField (payload : List Byte) (s : State) : Host.Outcome State Fault Refusal :=
  .next (hostRequest (payload.length = 10) (doEdit payload) s)

/-- The record RETARGET_FIELD leaves: the source set, host data kept only for HOST (R106). -/
def Field.retargeted (d : Field) (src : Source) : Field :=
  { d with source := src, hostData := if src = .host then d.hostData else none }

/-- RETARGET_FIELD once taken, with its checks in the order of R106. -/
def doRetarget (p : List Byte) (s : State) : State :=
  match decodeSource (byteAt p 1) (byteAt p 2) with
  | none => s.respond .badParameter []
  | some src =>
    onField true (byteAt p 0) (fun f d s =>
      if !s.sourceLive src then s.respond .staleHandle []
      else if !admits d.kind src then s.respond .wrongState []
      else ((s.putField f (d.retargeted src)).markDirty f).respond .ok []) s

/-- RETARGET_FIELD (R106). -/
def execRetargetField (payload : List Byte) (s : State) : Host.Outcome State Fault Refusal :=
  .next (hostRequest (payload.length = 3) (doRetarget payload) s)

/-! ## RETIRE_FIELD -/

/-- The effects of a successful RETIRE_FIELD, in the order of R107. -/
def State.retireField (s : State) (f : FieldIx) (d : Field) : State :=
  let s1 := s.setFt { s.ft with owners := setOwners s.ft.owners d.segs none }
  let s2 := s1.setRe { queue := s1.re.queue.erase f
                       plane := s1.re.plane.write (d.segs.map fun a => (a, .off))
                       changed := true }
  s2.setFt { s2.ft with slots := vput s2.ft.slots f { gen := s2.ft.slots[f].gen + 1, occupant := none } }

/-- RETIRE_FIELD once taken (R107). -/
def doRetireField (p : List Byte) (s : State) : State :=
  onField true (byteAt p 0) (fun f d s => (s.retireField f d).respond .ok []) s

/-- RETIRE_FIELD (R107). -/
def execRetireField (payload : List Byte) (s : State) : Host.Outcome State Fault Refusal :=
  .next (hostRequest (payload.length = 1) (doRetireField payload) s)

/-! ## Reading fields and owners -/

/-- READ_FIELD once taken (R110). -/
def doReadField (p : List Byte) (s : State) : State :=
  onField true (byteAt p 0) (fun f d s => s.respond .ok (fieldReport (s.fieldHandleByte f) d)) s

/-- READ_FIELD (R110). -/
def execReadField (payload : List Byte) (s : State) : Host.Outcome State Fault Refusal :=
  .next (hostRequest (payload.length = 1) (doReadField payload) s)

/-- READ_OWNER once taken (R111). -/
def doReadOwner (p : List Byte) (s : State) : State :=
  match s.addrIn (byteAt p 0) with
  | none => s.respond .segmentRange []
  | some a =>
    match s.ft.owners[a] with
    | none => s.respond .ok [0xFF#8]
    | some f => s.respond .ok [s.fieldHandleByte f]

/-- READ_OWNER (R111). -/
def execReadOwner (payload : List Byte) (s : State) : Host.Outcome State Fault Refusal :=
  .next (hostRequest (payload.length = 1) (doReadOwner payload) s)

end Sys2Proof.Machine
end

