-- ==== Sys2Proof/Machine/Glass.lean ====
section
/-! DEFINITION. The Glass Scanner (chapter 8): the frame end, hold and release, SET_GLASS and READ_PLANE. -/

namespace Sys2Proof.Machine

/-! ## SET_GLASS -/

/-- The addresses a change of duty removes, in address order (R102). -/
def removedBy (old new : Duty) : List SegAddr := (geometry old).filter fun a => !inGeometry new a

/-- The first owned address, in address order, that the requested duty would remove, and its owner (R143). -/
def State.conflict (s : State) (d : Duty) : Option (SegAddr × FieldIx) :=
  (removedBy s.gs.settings.duty d).findSome? fun a => s.ft.owners[a].map fun f => (a, f)

/-- The pending settings stored or removed (R131). -/
def State.setPendingGlass (s : State) (g : Option GlassSettings) : State := s.setGs { s.gs with pendingSettings := g }

/-- SET_GLASS once taken, with its checks in the order of R143; it then waits (R144). -/
def doSetGlass (p : List Byte) (s : State) : State :=
  match decodeGlass p with
  | none => s.respond .badParameter []
  | some g =>
    if s.gs.hold.isSome then s.respond .held []
    else match s.conflict g.duty with
      | some (a, f) => s.respond .geometryConflict [addrByte a, s.fieldHandleByte f]
      | none => (s.setPendingGlass (some g)).wait .setGlass

/-- SET_GLASS (R143, R144). -/
def execSetGlass (payload : List Byte) (s : State) : Host.Outcome State Fault Refusal :=
  .next (hostRequest (payload.length = 5) (doSetGlass payload) s)

/-! ## Holding -/

/-- HOLD_DISPLAY once taken (R139). -/
def doHold (p : List Byte) (s : State) : State :=
  if byteAt p 0 = 0#8 then s.respond .badParameter []
  else (s.setGs { s.gs with hold := some (byteAt p 0).toNat }).respond .ok []

/-- HOLD_DISPLAY (R139). -/
def execHoldDisplay (payload : List Byte) (s : State) : Host.Outcome State Fault Refusal :=
  .next (hostRequest (payload.length = 1) (doHold payload) s)

/-- RELEASE_DISPLAY once taken (R140). -/
def doRelease (s : State) : State :=
  if s.gs.hold.isSome then (s.setGs { s.gs with hold := none }).respond .ok [] else s.respond .notHeld []

/-- RELEASE_DISPLAY (R140). -/
def execReleaseDisplay (payload : List Byte) (s : State) : Host.Outcome State Fault Refusal :=
  .next (hostRequest (payload.length = 0) doRelease s)

/-! ## READ_PLANE -/

/-- READ_PLANE once taken (R146). -/
def doReadPlane (p : List Byte) (s : State) : State :=
  if byteAt p 0 = 0#8 then
    s.respond .ok (s.gs.settings.duty.byte :: planeBytes s.gs.settings.duty s.gs.shown)
  else if byteAt p 0 = 1#8 then
    s.respond .ok (s.gs.settings.duty.byte :: planeBytes s.gs.settings.duty s.re.plane)
  else s.respond .badParameter []

/-- READ_PLANE (R146). -/
def execReadPlane (payload : List Byte) (s : State) : Host.Outcome State Fault Refusal :=
  .next (hostRequest (payload.length = 1) (doReadPlane payload) s)

/-! ## The frame end -/

/-- A table of the segment addresses after a change of duty: entries of addresses that exist under both duties are
kept, and every other is `empty` (R102, R118, R133). -/
def changeDuty {α : Type} (old new : Duty) (empty : α) (v : Vector α 132) : Vector α 132 :=
  Vector.ofFn fun a : SegAddr => if inGeometry old a && inGeometry new a then v[a] else empty

/-- The geometry change at a frame end: the ownership map and both planes (R137, step 1). -/
def State.changeGeometry (s : State) (new : Duty) : State :=
  let old := s.gs.settings.duty
  ((s.setFt { s.ft with owners := changeDuty old new none s.ft.owners }).setRe
    { s.re with plane := changeDuty old new .off s.re.plane }).setGs
    { s.gs with shown := changeDuty old new .off s.gs.shown }

/-- The application of pending settings at a frame end, and the completion of the waiting SET_GLASS (R137). -/
def State.applySettings (s : State) : State :=
  match s.gs.pendingSettings with
  | none => s
  | some g =>
    let s1 := if g.duty = s.gs.settings.duty then s else s.changeGeometry g.duty
    (s1.setGs { s1.gs with settings := g, pendingSettings := none }).endWait .setGlass .ok []

/-- The commit: the pending plane copied into the shown plane and the changed mark cleared, when the mark is set and the
display is not held (R138). -/
def State.commit (s : State) : State :=
  if s.re.changed && s.gs.hold.isNone then
    (s.setGs { s.gs with shown := s.re.plane }).setRe { s.re with changed := false }
  else s

/-- The frame that begins: its drive fixed, its polarity reversed, the frame timer reloaded with the period in force
(R132, R133, R136). -/
def State.beginFrame (s : State) : State :=
  s.setGs { s.gs with
    frameTimer := s.gs.settings.period.periods
    drive := { plane := s.gs.shown, display := s.gs.settings.display, slowLit := s.gs.slow.lit
               fastLit := s.gs.fast.lit, reversed := !s.gs.drive.reversed } }

/-- The frame end (R136, R137, R138); none falls while a reset is held, since the frame timer is stopped (R180). -/
def State.frameEnd (s : State) : State :=
  if s.csu.held then s else s.applySettings.commit.beginFrame

/-- FRAME_END (R137). -/
def execFrameEnd (s : State) : Host.Outcome State Fault Refusal := .next s.frameEnd

end Sys2Proof.Machine
end

