-- ==== Sys2Proof/Machine/Scheduling.lean ====
section
/-! DEFINITION. The Measurement Scheduler (chapter 3): PICK, and the START, SUSPEND, MEASURE_NOW, PAUSE and RESUME requests. -/

namespace Sys2Proof.Machine

/-! ## The pick -/

/-- PICK (R48). -/
def execPick (s : State) : Host.Outcome State Fault Refusal := .next s.pick

/-! ## START_CHANNEL and SUSPEND_CHANNEL -/

/-- START_CHANNEL once taken, with the pick that may follow its join (R54). -/
def doStart (p : List Byte) (s : State) : State :=
  onChannel true (byteAt p 0) (fun i c s =>
    if c.state = .active then s.respond .wrongState []
    else
      (((s.putChannel i { c with state := .active
                                 sched := { c.sched with countdown := some c.defn.interval } }).joinTail i).respond
        .ok []).pick) s

/-- START_CHANNEL (R54). -/
def execStartChannel (payload : List Byte) (s : State) : Host.Outcome State Fault Refusal :=
  .next (hostRequest (payload.length = 1) (doStart payload) s)

/-- The effects of a successful SUSPEND_CHANNEL, in the order of R55: the scheduling part ends clear, since step 3
makes the countdown absent and steps 5 and 6 clear the one-shot and the marks. -/
def State.suspendChannel (s : State) (i : Slot) (c : Channel) : State :=
  ((s.abandon i).putChannel i { c with state := .suspended, sched := Schedule.clear }).leaveQueue i

/-- SUSPEND_CHANNEL once taken (R55), with the pick behind an abandonment (R48). -/
def doSuspend (p : List Byte) (s : State) : State :=
  onChannel true (byteAt p 0) (fun i c s =>
    if c.state = .active then ((s.suspendChannel i c).respond .ok []).pick else s.respond .wrongState []) s

/-- SUSPEND_CHANNEL (R55). -/
def execSuspendChannel (payload : List Byte) (s : State) : Host.Outcome State Fault Refusal :=
  .next (hostRequest (payload.length = 1) (doSuspend payload) s)

/-! ## MEASURE_NOW -/

/-- The one-shot fields set by a MEASURE_NOW (R42). -/
def Schedule.asked (c : Schedule) (wait : Bool) : Schedule :=
  { c with oneShot := true, notice := true, unwaited := c.unwaited || !wait }

/-- The one-shot set and the channel placed: at the head, or attached to its conversion in flight (R57). -/
def State.measure (s : State) (i : Slot) (wait : Bool) : State :=
  let s1 := s.onSched i fun c => c.asked wait
  if s1.converting i then s1 else s1.toHead i

/-- MEASURE_NOW once taken (R57, R58), with the pick that may follow its placement. -/
def doMeasure (p : List Byte) (s : State) : State :=
  onChannel (yesNo (byteAt p 1)).isSome (byteAt p 0) (fun i _ s =>
    if byteAt p 1 = 1#8 then ((s.measure i true).wait (.measureNow i)).pick
    else ((s.measure i false).respond .ok []).pick) s

/-- MEASURE_NOW (R57, R58). -/
def execMeasureNow (payload : List Byte) (s : State) : Host.Outcome State Fault Refusal :=
  .next (hostRequest (payload.length = 2) (doMeasure payload) s)

/-- The MS's handling of a cancelled MEASURE_NOW of a channel (R59): nothing when a MEASURE_NOW without wait took part;
otherwise the notice is cleared when the serving conversion has started, and the one-shot withdrawn when it has not. -/
def State.cancelMeasure (s : State) (i : Slot) : State :=
  match s.channel i with
  | none => s
  | some c =>
    if c.sched.unwaited then s
    else if s.converting i then s.onSched i fun c => { c with notice := false }
    else
      let s1 := s.onSched i fun c => { c with oneShot := false, notice := false }
      if c.state = .active then s1 else s1.withdraw i

/-! ## PAUSE_SCHEDULE and RESUME_SCHEDULE -/

/-- The schedule mode set and OK answered (R61). -/
def doMode (m : ScheduleMode) (s : State) : State := (s.setMs { s.ms with mode := m }).respond .ok []

/-- PAUSE_SCHEDULE (R61). -/
def execPauseSchedule (payload : List Byte) (s : State) : Host.Outcome State Fault Refusal :=
  .next (hostRequest (payload.length = 0) (doMode .paused) s)

/-- RESUME_SCHEDULE, with the pick that may follow it (R61). -/
def execResumeSchedule (payload : List Byte) (s : State) : Host.Outcome State Fault Refusal :=
  .next (hostRequest (payload.length = 0) (fun s => (doMode .run s).pick) s)

end Sys2Proof.Machine
end

