-- ==== Sys2Proof/Machine/Port.lean ====
section
/-! DEFINITION. The Host Port's own commands (chapter 10): READ_STATUS, frame errors, unknown and dropped commands, FETCH and
CANCEL. -/

namespace Sys2Proof.Machine

/-! ## READ_STATUS -/

/-- The number of live channels (R172). -/
def State.liveChannels (s : State) : Nat := (s.ct.slots.toList.filter fun sl => sl.occupant.isSome).length

/-- The number of live fields (R172). -/
def State.liveFields (s : State) : Nat := (s.ft.slots.toList.filter fun sl => sl.occupant.isSome).length

/-- The code of the CE's state as it stands: IDLE, SETTLING or COUNTING (R39, R172). DESIGN CHOICE
(notes/assumptions/20.md): R39 also says that two READ_STATUS with no completion, start or abandonment between them report
the same state, but the last settling edge moves SETTLING to COUNTING between two such requests (R27); the model reports
the state as it stands at each. -/
def Engine.code (e : Engine) : Byte :=
  match e.conv with
  | none => 0#8
  | some v => match v.phase with
    | .settling => 1#8
    | .counting => 2#8

/-- The handle byte of the channel being converted, FFh for none (R39). -/
def State.convertingByte (s : State) : Byte :=
  match s.ce.conv with
  | none => 0xFF#8
  | some v => s.handleByte v.channel

/-- The nine bytes of READ_STATUS (R172). -/
def State.statusReport (s : State) : List Byte :=
  [0x24#8, 1#8, BitVec.ofNat 8 s.liveChannels, BitVec.ofNat 8 s.liveFields,
   (match s.ms.mode with
    | .run => 0#8
    | .paused => 1#8),
   s.ce.code, s.convertingByte,
   BitVec.ofNat 8 (s.gs.settings.display.toNat + s.gs.hold.isSome.toNat * 2
     + (decide (s.gs.settings.duty = .third)).toNat * 4),
   BitVec.ofNat 8 s.hp.powerOn.toNat]

/-- READ_STATUS once taken: the report, then the power-on flag cleared (R172). -/
def doReadStatus (s : State) : State :=
  let s1 := s.respond .ok s.statusReport
  s1.setHp { s1.hp with powerOn := false }

/-- READ_STATUS (R172). -/
def execReadStatus (payload : List Byte) (s : State) : Host.Outcome State Fault Refusal :=
  .next (hostRequest (payload.length = 0) doReadStatus s)

/-! ## Frames that reach no unit -/

/-- FRAME_ERROR: a COMMAND transaction whose bytes after 5Ch fail the form checks (R166). Bytes that pass them are no
frame error, and the event does not occur (notes/assumptions/6.md). -/
def execFrameError (bytes : List Byte) (s : State) : Host.Outcome State Fault Refusal :=
  .next (if (judgeFrame bytes).isNone then commandFrame (fun s => s.respond .badFrame []) s else s)

/-- UNKNOWN_COMMAND: a frame of good form whose code is not listed (R167). A listed code makes it another command, and
the event does not occur (notes/assumptions/6.md). -/
def execUnknownCommand (code : Byte) (payload : List Byte) (s : State) : Host.Outcome State Fault Refusal :=
  .next (if (requestOf code payload).isNone then commandFrame (fun s => s.respond .unknownCommand []) s else s)

/-- COMMAND_DROPPED: a COMMAND frame that ends in BUSY or INIT (R165). In IDLE and DONE no frame is dropped, and the
event does not occur (notes/assumptions/6.md). -/
def execCommandDropped (s : State) : Host.Outcome State Fault Refusal :=
  .next (match s.hp.port with
    | .init => commandFrame id s
    | .busy => commandFrame id s
    | .idle => if s.deaf then commandFrame id s else s
    | .done => if s.deaf then commandFrame id s else s)

/-! ## FETCH and CANCEL -/

/-- The response frame a FETCH fixes from the port state and the slot (R169). -/
def State.fetchFrame (s : State) : List Byte :=
  match s.hp.port, s.hp.response with
  | .done, some r => responseFrame r.code r.payload
  | .done, none => responseFrame .noResponse []
  | .idle, _ => responseFrame .noResponse []
  | .busy, _ => responseFrame .notReady []
  | .init, _ => responseFrame .notReady []

/-- The falling edge of CS: the status byte is formed and kept for the transaction it begins, in which nothing is shifted
out yet (R161). Also while a reset is held: the bytes that come after the release are judged (R165, R173). -/
def State.csFalls (s : State) : State := s.setHp { s.hp with select := .low (statusByte s), sdo := [] }

/-- What a byte looks like on SDO of which the part shifts out the first `n` bits, most significant bit first (10.1), and
ones in place of the rest (R161). -/
def firstBits (b : Byte) (n : Nat) : Byte := b ||| (0xFF#8 >>> n)

/-- `n` edges of the serial clock taken in the first byte: so many bits of the status byte are out, and would be followed by
FFh if a reset fell now (R161). An edge taken while a reset is held shifts out a one, and the byte, which names the kind of
the transaction (R163), is not judged (R180); that this holds too of a byte that ends after the release is a DESIGN CHOICE
(notes/assumptions/8.md). With CS high, and in a transaction that is not judged, SDO has nothing to add. -/
def State.clocked (s : State) (n : Nat) : State :=
  match s.hp.select with
  | .low b =>
    if s.csu.held then if n = 0 then s else s.setHp { s.hp with select := .dead }
    else s.setHp { s.hp with sdo := [firstBits b n] }
  | .high => s
  | .dead => s

/-- FETCH: the response frame, fixed when 3Ah has been received, is shifted out after the status byte as far as the host
clocks it, and nothing else changes (R169). A status poll shifts out the status byte alone (R163). -/
def execFetch (s : State) (part : FetchPart := .reads 0) : Host.Outcome State Fault Refusal :=
  .next (match part with
    | .falls => s.csFalls
    | .clocked n => s.clocked n
    | .poll => s.shiftOut []
    | .reads n => s.shiftOut (s.fetchFrame.take n))

/-- The cancellation of the command in progress (R59, R145, R170), with the pick that may follow it (R48). -/
def State.cancelWaiting (s : State) : State :=
  match s.hp.waiting with
  | some (.measureNow i) => ((s.cancelMeasure i).respond .cancelled []).pick
  | some .setGlass => (s.setPendingGlass none).respond .cancelled []
  | some .restart => s
  | none => s

/-- CANCEL (R170). No byte is judged when the port is deaf (R161, R180). -/
def execCancel (s : State) : Host.Outcome State Fault Refusal :=
  .next (if s.deaf then s.shiftOut [] else (s.shiftOut []).cancelWaiting)

end Sys2Proof.Machine
end

