-- ==== Sys2Proof/Machine/Rendering.lean ====
section
/-! DEFINITION. The Render Engine (chapter 7): what each kind of field shows of its source, the glyphs, segment states, the
render event, and SET_FIELD_VALUE. -/

namespace Sys2Proof.Machine

/-! ## What a render reads -/

/-- A field's source state as a render reads it (R116): nothing, the host data, or a channel's result part with the
decimals of its curve. -/
inductive SourceView where
  | detached
  | host (data : Option HostDatum)
  | channel (result : Result) (decimals : Nat)
  deriving DecidableEq, Repr

/-- The source state of a field at this moment (R116, R117). -/
def State.view (s : State) (f : Field) : SourceView :=
  match f.source with
  | .detached => .detached
  | .host => .host f.hostData
  | .channel i g =>
    match s.accept i g with
    | none => .detached
    | some c => .channel c.result ((c.curve.map Curve.decimals).getD 0)

/-! ## Glyphs (R121) -/

/-- The glyphs of the part. -/
inductive Glyph where
  | digit (n : Fin 10)
  | blank
  | dash
  | letO
  | letL
  | letH
  | letE
  | letr
  | letF
  deriving DecidableEq, Repr

/-- The segments a glyph lights, a to g in order (R121). -/
def Glyph.lights : Glyph → List Bool
  | .digit 0 => [true, true, true, true, true, true, false]
  | .digit 1 => [false, true, true, false, false, false, false]
  | .digit 2 => [true, true, false, true, true, false, true]
  | .digit 3 => [true, true, true, true, false, false, true]
  | .digit 4 => [false, true, true, false, false, true, true]
  | .digit 5 => [true, false, true, true, false, true, true]
  | .digit 6 => [true, false, true, true, true, true, true]
  | .digit 7 => [true, true, true, false, false, false, false]
  | .digit 8 => [true, true, true, true, true, true, true]
  | .digit 9 => [true, true, true, true, false, true, true]
  | .blank => [false, false, false, false, false, false, false]
  | .dash => [false, false, false, false, false, false, true]
  | .letO => [true, true, true, true, true, true, false]
  | .letL => [false, false, false, true, true, true, false]
  | .letH => [false, true, true, false, true, true, true]
  | .letE => [true, false, false, true, true, true, true]
  | .letr => [false, false, false, false, true, false, true]
  | .letF => [true, false, false, false, true, true, true]

/-! ## NUMERIC fields -/

/-- What a NUMERIC field shows (R122). -/
inductive Shown where
  | noNumber
  | number (mantissa : Int) (decimals : Nat)
  | under
  | over
  | noSignal
  | noReference
  deriving DecidableEq, Repr

/-- The choice of what a NUMERIC field with `d` field decimals shows, from its source state (R122). -/
def SourceView.shown (v : SourceView) (d : Nat) : Shown :=
  match v with
  | .detached => .noNumber
  | .host (some (.value m)) => .number m d
  | .host _ => .noNumber
  | .channel r dec =>
    match r.outcome with
    | .none => .noNumber
    | .good => match r.value with
      | none => .noNumber
      | some m => .number m dec
    | .under => .under
    | .over => .over
    | .overflow => .over
    | .noSignal => .noSignal
    | .noReference => .noReference

/-- The mantissa `m` with `s` decimals brought to `d`; nothing for a display overflow (R123, step 1). -/
def rescale (m : Int) (s d : Nat) : Option Int :=
  if d = s then some m
  else if d < s then some (roundAway m (10 ^ (s - d)))
  else
    let x := m * (10 ^ (d - s) : Nat)
    if -32768 ≤ x ∧ x ≤ 32767 then some x else none

/-- The decimal digits of a number, most significant first; `fuel` bounds their count. -/
def digits (fuel n : Nat) : List (Fin 10) :=
  match fuel with
  | 0 => []
  | fuel + 1 => if n < 10 then [Fin.ofNat 10 n] else digits fuel (n / 10) ++ [Fin.ofNat 10 n]

/-- The digit string of a magnitude: leading zeros until it has `d + 1` digits (R123, step 2). A magnitude has at most
five digits. -/
def digitString (n d : Nat) : List (Fin 10) :=
  let ds := digits 6 n
  List.replicate (d + 1 - ds.length) 0 ++ ds

/-- The glyphs of the positions, and whether the sign segment is lit. -/
structure Layout where
  glyphs : List Glyph
  sign : Bool
  pointAt : Option Nat
  deriving DecidableEq, Repr

/-- Glyphs aligned to the right of `width` positions, blanks to their left (R123, R124). -/
def alignRight (width : Nat) (g : List Glyph) : List Glyph := List.replicate (width - g.length) .blank ++ g

/-- A substitute's layout: every decimal point dark (R124). -/
def substitute (width : Nat) (g : List Glyph) (signLit : Bool) : Layout :=
  { glyphs := alignRight width g, sign := signLit, pointAt := none }

/-- The OVER substitute (R124). -/
def overLayout (width : Nat) : Layout :=
  substitute width (if width = 1 then [.letH] else [.letO, .letL]) false

/-- The UNDER substitute, with and without a sign segment (R124). -/
def underLayout (width : Nat) (sign : Bool) : Layout :=
  if sign then substitute width (if width = 1 then [.letL] else [.letO, .letL]) true
  else if width = 1 then substitute width [.letL] false
  else if width = 2 then substitute width [.letO, .letL] false
  else substitute width [.dash, .letO, .letL] false

/-- The NO_SIGNAL substitute (R124). -/
def noSignalLayout (width : Nat) : Layout :=
  substitute width (if width ≤ 2 then [.letE] else [.letE, .letr, .letr]) false

/-- The NO_REFERENCE substitute (R124). -/
def noReferenceLayout (width : Nat) : Layout :=
  substitute width (if width ≤ 2 then [.letr] else [.letr, .letE, .letF]) false

/-- A number laid out, or the OVER substitute for a display overflow (R123). -/
def numberLayout (width : Nat) (sign : Bool) (d : Nat) (m : Int) (s : Nat) : Layout :=
  match rescale m s d with
  | none => overLayout width
  | some v =>
    let negative := v < 0
    let ds := (digitString v.natAbs d).map Glyph.digit
    let g := if negative && !sign then .dash :: ds else ds
    if g.length ≤ width then
      { glyphs := alignRight width g, sign := sign && negative, pointAt := if d = 0 then none else some (width - 1 - d) }
    else overLayout width

/-- The layout of a NUMERIC field (R122, R123, R124). -/
def numericLayout (width : Nat) (sign : Bool) (d : Nat) (v : SourceView) : Layout :=
  match v.shown d with
  | .noNumber => { glyphs := List.replicate width .dash, sign := false, pointAt := none }
  | .number m s => numberLayout width sign d m s
  | .under => underLayout width sign
  | .over => overLayout width
  | .noSignal => noSignalLayout width
  | .noReference => noReferenceLayout width

/-- A layout as the lit segments of a NUMERIC list: each position a to g, then its decimal point when there is one, and
last the sign segment when there is one (R98, R121). -/
def Layout.lit (l : Layout) (points sign : Bool) : List Bool :=
  (l.glyphs.zipIdx.map fun gk =>
      gk.1.lights ++ (if points then [decide (l.pointAt = some gk.2)] else [])).flatten
    ++ (if sign then [l.sign] else [])

/-! ## BAR, INDICATOR and PATTERN fields -/

/-- How many of `n` bar segments a mantissa lights, ties upward, held to 0..n (R125). -/
def barCount (n : Nat) (lo hi v : Int) : Nat :=
  let k := roundUp (n * (v - lo)) (hi - lo).toNat
  if k < 0 then 0 else if k > n then n else k.toNat

/-- How many of `n` bar segments a source state lights (R125). -/
def SourceView.bar (v : SourceView) (n : Nat) (lo hi : Int) : Nat :=
  match v with
  | .detached => 0
  | .host (some (.value m)) => barCount n lo hi m
  | .host _ => 0
  | .channel r _ =>
    match r.outcome with
    | .good => match r.value with
      | none => 0
      | some m => barCount n lo hi m
    | .over => n
    | .overflow => n
    | .none => 0
    | .under => 0
    | .noSignal => 0
    | .noReference => 0

/-- An INDICATOR's condition holds (R126). -/
def SourceView.holds (v : SourceView) (c : Condition) : Bool :=
  match c, v with
  | .high, .channel r _ => r.limit = .high
  | .low, .channel r _ => r.limit = .low
  | .alarm, .channel r _ => r.limit = .low || r.limit = .high
  | .doubt, .channel r _ => r.outcome ≠ .good || r.freshness = some .stale
  | .stale, .channel r _ => r.freshness = some .stale
  | .hostFlag, .host d => d = some (.flag true)
  | _, _ => false

/-- The elements of a host pattern; none without one (R126). -/
def SourceView.elements (v : SourceView) : List Bool :=
  match v with
  | .host (some (.pattern e)) => e
  | _ => []

/-! ## Segment states (R120) -/

/-- The lit segments of a field, in list order, by its kind's rule. -/
def litSegments (k : FieldKind) (n : Nat) (v : SourceView) : List Bool :=
  match k with
  | .numeric width points sign d => (numericLayout width sign d v).lit points sign
  | .bar lo hi => (List.range n).map fun j => decide (j < v.bar n lo hi)
  | .indicator c => List.replicate n (v.holds c)
  | .pattern => (List.range n).map fun j => v.elements.getD j false

/-- The blink condition of a mode holds for a source state (R120). -/
def SourceView.blinks (v : SourceView) (m : BlinkMode) : Bool :=
  match m, v with
  | .none, _ => false
  | .always, _ => true
  | .onAlarm, .channel r _ => r.limit = .low || r.limit = .high
  | .onAlarm, _ => false
  | .onDoubt, .channel r _ => r.outcome ≠ .good || r.freshness = some .stale
  | .onDoubt, .detached => true
  | .onDoubt, .host d => d.isNone

/-- The state a lit segment of a field takes (R120). -/
def litState (f : Field) (v : SourceView) : SegState :=
  if v.blinks f.blinkMode then (match f.blinkRate with
    | .slow => .blinkSlow
    | .fast => .blinkFast)
  else .on

/-- The state of each of a field's segments, in list order (R120). -/
def segmentStates (f : Field) (v : SourceView) : List SegState :=
  if f.visible then
    (List.range f.segs.length).map fun j =>
      if (litSegments f.kind f.segs.length v).getD j false then litState f v else .off
  else List.replicate f.segs.length .off

/-! ## The render -/

/-- The render of one field: every owned segment written, the changed mark set (R116). -/
def State.renderField (s : State) (f : Field) : State :=
  s.setRe { s.re with plane := s.re.plane.write (f.segs.zip (segmentStates f (s.view f))), changed := true }

/-- The render event: the head entry leaves the queue and its field is rendered whole (R116). -/
def State.render (s : State) : State :=
  match s.re.queue with
  | [] => s
  | f :: rest =>
    let s1 := s.setRe { s.re with queue := rest }
    match s.field f with
    | none => s1
    | some d => s1.renderField d

/-- RENDER (R116). -/
def execRender (s : State) : Host.Outcome State Fault Refusal := .next s.render

/-! ## SET_FIELD_VALUE -/

/-- The form of the data matches the field's kind; ABSENT matches every kind (R128, step 4). -/
def formMatches (k : FieldKind) (d : Option HostDatum) : Bool :=
  match k, d with
  | _, none => true
  | .numeric .., some (.value _) => true
  | .bar .., some (.value _) => true
  | .indicator _, some (.flag _) => true
  | .pattern, some (.pattern _) => true
  | _, _ => false

/-- A pattern has one element for each of the field's segments; other data fits any list (R128, step 5). -/
def patternFits (n : Nat) (d : Option HostDatum) : Bool :=
  match d with
  | some (.pattern e) => e.length = n
  | _ => true

/-- SET_FIELD_VALUE once taken, with its checks in the order of R128. -/
def doSetFieldValue (p : List Byte) (s : State) : State :=
  onField (decodeDatum p).isSome (byteAt p 0) (fun f d s =>
    let x := (decodeDatum p).bind id
    if d.source ≠ .host then s.respond .wrongState []
    else if !formMatches d.kind x then s.respond .badParameter []
    else if !patternFits d.segs.length x then s.respond .badLength []
    else ((s.putField f { d with hostData := x }).markDirty f).respond .ok []) s

/-- SET_FIELD_VALUE (R128). -/
def execSetFieldValue (payload : List Byte) (s : State) : Host.Outcome State Fault Refusal :=
  .next (hostRequest (valueLengthOk payload) (doSetFieldValue payload) s)

end Sys2Proof.Machine
end

