-- ==== Sys2Proof/Machine/Results.lean ====
section
/-! DEFINITION. The requests of the Result Unit (SET_CURVE, SET_LIMITS, SET_STALE_LIMIT; chapters 4 and 5). -/

namespace Sys2Proof.Machine

/-! ## SET_CURVE -/

/-- Steps 3 to 5 of R75: the count, the increasing x values, and their range. -/
def curveOk (d : ChannelDef) (pts : List Breakpoint) : Bool :=
  (pts.length = 0 || (2 ≤ pts.length && pts.length ≤ 8)) && increasing pts && pts.all fun b => b.x ≤ maxInput d

/-- The curve a payload supplies; a count of 0 removes it (4.6). -/
def suppliedCurve (p : List Byte) : Option Curve :=
  if byteAt p 2 = 0#8 then none
  else some { decimals := (byteAt p 1).toNat, points := breakpoints p (byteAt p 2).toNat }

/-- The effects of a successful SET_CURVE: the curve replaced, the result recomputed from the stored input, the limits
evaluated, the raises made and the fields marked (R76, R77). -/
def State.setCurve (s : State) (i : Slot) (c : Channel) (k : Option Curve) : State :=
  let r := ({ c with curve := k } : Channel).recomputed.evaluate c.limits
  (s.putResult i { c with curve := k } r (r.outcome ≠ c.result.outcome)).markFields i

/-- SET_CURVE once taken, with its checks in the order of R75. -/
def doSetCurve (p : List Byte) (s : State) : State :=
  onChannel (byteAt p 2 = 0#8 || (byteAt p 1).toNat ≤ 3) (byteAt p 0) (fun i c s =>
    if curveOk c.defn (breakpoints p (byteAt p 2).toNat) then (s.setCurve i c (suppliedCurve p)).respond .ok []
    else s.respond .badCurve []) s

/-- SET_CURVE (R75, R76, R77). -/
def execSetCurve (payload : List Byte) (s : State) : Host.Outcome State Fault Refusal :=
  .next (hostRequest (curveLengthOk payload) (doSetCurve payload) s)

/-! ## SET_LIMITS -/

/-- Step 3 of R89: at least one bound, and a band wider than twice the hysteresis when both are present. -/
def Limits.valid (l : Limits) : Bool :=
  match l.low, l.high with
  | none, none => false
  | some a, some b => b - a > 2 * (l.hysteresis : Int)
  | _, _ => true

/-- The effects of a successful SET_LIMITS: the set stored or removed, the state reset to NORMAL and evaluated once,
LIMIT raised on a change, the fields marked (R90). -/
def State.setLimits (s : State) (i : Slot) (c : Channel) (l : Option Limits) : State :=
  let r := ({ c.result with limit := .normal } : Result).evaluate l
  (s.putResult i { c with limits := l } r false).markFields i

/-- SET_LIMITS once taken, with its checks in the order of R89. -/
def doSetLimits (p : List Byte) (s : State) : State :=
  onChannel (decodeLimits p).isSome (byteAt p 0) (fun i c s =>
    match (decodeLimits p).bind id with
    | none => (s.setLimits i c none).respond .ok []
    | some l => if l.valid then (s.setLimits i c (some l)).respond .ok [] else s.respond .badLimits []) s

/-- SET_LIMITS (R89, R90). -/
def execSetLimits (payload : List Byte) (s : State) : Host.Outcome State Fault Refusal :=
  .next (hostRequest (payload.length = 10) (doSetLimits payload) s)

/-! ## Stale limits -/

/-- The effects of a successful SET_STALE_LIMIT: the limit stored, the freshness judged again by R82 while the age is
present, QUALITY raised on a change, the fields marked (R84). -/
def State.setStaleLimit (s : State) (i : Slot) (c : Channel) (limit : Nat) : State :=
  let r := { c.result with
    freshness := if c.result.outcome = .none then c.result.freshness else c.result.age.map (freshnessOf limit) }
  (s.putResult i { c with staleLimit := limit } r (r.freshness ≠ c.result.freshness)).markFields i

/-- SET_STALE_LIMIT once taken (R84). -/
def doSetStaleLimit (p : List Byte) (s : State) : State :=
  onChannel (word16 p 1 ≤ 16383) (byteAt p 0) (fun i c s => (s.setStaleLimit i c (word16 p 1)).respond .ok []) s

/-- SET_STALE_LIMIT (R84). -/
def execSetStaleLimit (payload : List Byte) (s : State) : Host.Outcome State Fault Refusal :=
  .next (hostRequest (payload.length = 3) (doSetStaleLimit payload) s)

end Sys2Proof.Machine
end

