-- ==== Sys2Proof/Machine/StartUp.lean ====
section
/-! DEFINITION. The Clock and Start-up Unit (chapter 11): resets and their release, the initialisations, and
RESTART. -/

namespace Sys2Proof.Machine

/-! ## Resets -/

/-- The CS line at a reset: the rest of a transaction in progress is not judged, until CS rises (R161). -/
def Select.reset : Select → Select
  | .high => .high
  | .low _ => .dead
  | .dead => .dead

/-- Every unit at its power-on values, with the reset that asserts it held (R180). The sampled clock source is kept
until the release (R177), and a transaction in progress ends for the port, with nothing but FFh after what it has
shifted out already (R161); the waiting commands of the model and its count of free values are not the part's. -/
def State.resetTo (s : State) (r : RestartReason) : State :=
  { State.reset with
    hp := { HostPort.initial with select := s.hp.select.reset, sdo := s.hp.sdo }
    csu := { ClockUnit.powerOn with reason := r, source := s.csu.source }
    pending := s.pending
    freeIx := s.freeIx }

/-- POWER_ON_RESET: the initialisation begins again, with reason POWER_ON (R180, R181). -/
def execPowerOnReset (s : State) : Host.Outcome State Fault Refusal := .next (s.resetTo .powerOn)

/-- RSTN_ASSERTED: reason RESET_LINE, unless a power-on reset holds the part, when RSTN makes no reset of its own
(R180, R181). -/
def execRstnAsserted (s : State) : Host.Outcome State Fault Refusal :=
  .next (if s.csu.held ∧ s.csu.reason = .powerOn then s.resetTo .powerOn else s.resetTo .resetLine)

/-- The slow-clock periods from the release to the end of the initialisation (R181). -/
def initPeriods : Nat := 1024

/-- The release of the reset: XSEL sampled, the slow clock, base-tick divider and frame timer started (R180). Without a
reset held there is no release. -/
def State.release (s : State) (xsel : Bool) : State :=
  if s.csu.held then
    (s.setCsu { s.csu with held := false, source := if xsel then .internal else .crystal, divider := 512
                           initCount := some initPeriods }).setGs
      { s.gs with frameTimer := s.gs.settings.period.periods }
  else s

/-- RESET_RELEASE (R177, R180). -/
def execResetRelease (xsel : Bool) (s : State) : Host.Outcome State Fault Refusal := .next (s.release xsel)

/-- The end of the initialisation: the port IDLE, RESTARTED raised with its reason, the power-on flag set after power-on
(R173, R181). -/
def State.initEnd (s : State) : State :=
  if s.hp.port = .init ∧ s.csu.held = false then
    ((s.setHp { s.hp with port := .idle, powerOn := s.hp.powerOn || decide (s.csu.reason = .powerOn) }).setAu
      (s.au.raiseRestarted s.csu.reason)).setCsu { s.csu with initCount := none }
  else s

/-- INITIALISATION_END (R181). -/
def execInitialisationEnd (s : State) : Host.Outcome State Fault Refusal := .next s.initEnd

/-! ## RESTART -/

/-- Every slot FREE with its generation advanced, both maps empty (R21). -/
def ChannelTable.restarted (t : ChannelTable) : ChannelTable :=
  { slots := t.slots.map fun sl => { gen := sl.gen + 1, occupant := none }
    tags := Vector.replicate 8 none
    pins := Vector.replicate 8 none }

/-- Every field slot FREE with its generation advanced, no address owned (R113). -/
def FieldTable.restarted (t : FieldTable) : FieldTable :=
  { slots := t.slots.map fun sl => { gen := sl.gen + 1, occupant := none }
    owners := Vector.replicate 132 none }

/-- RESTART once taken: the units clear their state in the order of R182, and the request waits (R174). -/
def doRestart (s : State) : State :=
  let s1 := s.stopEngine.setMs Scheduler.initial
  let s2 := s1.setCt s1.ct.restarted
  let s3 := (s2.setFt s2.ft.restarted).setRe Renderer.initial
  let s4 := (s3.setGs { s3.gs with shown := Plane.dark, hold := none }).setAu s3.au.clear
  s4.wait .restart

/-- RESTART (R182). -/
def execRestart (payload : List Byte) (s : State) : Host.Outcome State Fault Refusal :=
  .next (hostRequest (payload.length = 0) doRestart s)

end Sys2Proof.Machine
end

