-- ==== Sys2Proof/Machine/Timers.lean ====
section
/-! DEFINITION. The base tick at each of its owners (chapter 11, R178): interval timers, result ages, blink phases, the hold
timer and a RESTART in progress, each with the expiry that its tick brings about, in one event; and the rows that name
such an expiry by itself. -/

namespace Sys2Proof.Machine

/-! ## Interval timers -/

/-- The expiry of a channel's interval timer: the countdown reloads, the channel joins the tail of the due queue or, queued
or converting, has its late mark set, and the MS makes a pick (R43, R44, R48). -/
def State.expireInterval (s : State) (i : Slot) (c : Channel) : State :=
  let absorbed := s.queued i || s.converting i
  ((s.putChannel i { c with sched := { c.sched with countdown := some c.defn.interval
                                                    late := c.sched.late || absorbed } }).joinTail i).pick

/-- A base tick at a channel's interval timer, which runs in ACTIVE with the schedule mode RUN: the tick that would bring
the countdown to 0 is the expiry (R43). -/
def State.tickInterval (s : State) (i : Slot) : State :=
  match s.channel i with
  | none => s
  | some c =>
    if c.state = .active ∧ s.ms.mode = .run then
      match c.sched.countdown with
      | none => s
      | some n =>
        if n ≤ 1 then s.expireInterval i c
        else s.putChannel i { c with sched := { c.sched with countdown := some (n - 1) } }
    else s

/-! ## Result ages -/

/-- An age one base tick on, held at 65535 (R81). -/
def olderBy1 (age : Nat) : Nat := min (age + 1) 65535

/-- The coming base tick makes the channel STALE: FRESH, and the tick brings its age to its nonzero stale limit (R82,
R83). -/
def Channel.staleNext (c : Channel) : Bool :=
  c.result.freshness = some .fresh && c.result.age.any fun a => freshnessOf c.staleLimit (olderBy1 a) = .stale

/-- A base tick at a channel's age (R81); the tick that brings a FRESH channel's age to its stale limit is the stale-limit
expiry: STALE, QUALITY, dirty marks (R83). That this holds too of a tick that falls together with a completion taken before
it, where R73 says that the expiry does not happen, is a DESIGN CHOICE at a stale limit of 1 (notes/assumptions/23.md). -/
def State.tickAge (s : State) (i : Slot) : State :=
  match s.channel i with
  | none => s
  | some c =>
    let r := { c.result with age := c.result.age.map olderBy1 }
    if c.staleNext then (s.putResult i c { r with freshness := some .stale } true).markFields i
    else s.putChannel i { c with result := r }

/-! ## Blink phases and the hold timer -/

/-- A base tick at a blink phase: the tick that brings the count to 0 toggles the phase and reloads the count (R135). -/
def BlinkPhase.tick (b : BlinkPhase) (reload : Nat) : BlinkPhase :=
  if b.count ≤ 1 then { lit := !b.lit, count := reload } else { b with count := b.count - 1 }

/-- A base tick at a blink phase of the scanner: 32 ticks from toggle to toggle for the slow phase, 8 for the fast one
(R135). -/
def State.tickBlink (s : State) (rate : BlinkRate) : State :=
  match rate with
  | .slow => s.setGs { s.gs with slow := s.gs.slow.tick 32 }
  | .fast => s.setGs { s.gs with fast := s.gs.fast.tick 8 }

/-- A base tick at the hold timer, which runs while the display is held: the tick that brings it to 0 is the hold expiry,
not held and HOLD_EXPIRED raised (R139, R141). -/
def State.tickHold (s : State) : State :=
  match s.gs.hold with
  | none => s
  | some n =>
    if n ≤ 1 then (s.setGs { s.gs with hold := none }).setAu s.au.raiseHold
    else s.setGs { s.gs with hold := some (n - 1) }

/-! ## RESTART -/

/-- A base tick at a RESTART in progress, which ends in it: RESTARTED(COMMAND) raised, then OK and DONE (R174, R183). -/
def State.tickRestart (s : State) : State :=
  if s.hp.waiting = some .restart then (s.setAu (s.au.raiseRestarted .command)).endWait .restart .ok [] else s

/-! ## The owners of a base tick -/

/-- The owners of a base tick, in the order in which BASE_TICK reaches them (DESIGN CHOICE, notes/assumptions/7.md: R178
lists them so and states no order). -/
def TickOwner.all : List TickOwner :=
  (List.finRange 8).map TickOwner.interval ++ (List.finRange 8).map TickOwner.age
    ++ [.blink .slow, .blink .fast, .hold, .restart]

/-- A base tick at one owner, with all that it brings about there, in one event. -/
def State.tick (s : State) (o : TickOwner) : State :=
  match o with
  | .interval i => s.tickInterval i
  | .age i => s.tickAge i
  | .blink rate => s.tickBlink rate
  | .hold => s.tickHold
  | .restart => s.tickRestart

/-- The coming base tick is an expiry at that owner: an interval or stale-limit expiry, a toggle, a hold expiry, the end of
a RESTART. -/
def State.expiresNext (s : State) (o : TickOwner) : Bool :=
  match o with
  | .interval i => (s.channel i).any fun c =>
      c.state = .active && s.ms.mode = .run && c.sched.countdown.any fun n => n ≤ 1
  | .age i => (s.channel i).any Channel.staleNext
  | .blink .slow => s.gs.slow.count ≤ 1
  | .blink .fast => s.gs.fast.count ≤ 1
  | .hold => s.gs.hold.any fun n => n ≤ 1
  | .restart => s.hp.waiting = some .restart

/-- The owner has taken the coming base tick. -/
def State.markEarly (s : State) (o : TickOwner) : State := s.setCsu { s.csu with early := o :: s.csu.early }

/-- The row of an expiry by itself (notes/assumptions/7.md): the coming base tick reaches that owner now, before the others,
when it is an expiry there. While a reset is held there is no tick (R180). -/
def State.expire (s : State) (o : TickOwner) : State :=
  if s.csu.held then s
  else if s.csu.early.contains o then s
  else if s.expiresNext o then (s.tick o).markEarly o
  else s

/-- The base tick at every owner that has not taken it, and the divider reloaded (R178); none comes while a reset is held
(R180). When it is the stale-limit expiry of several channels, the fields of each join the render queue in ascending order,
those of the lower slot first: a DESIGN CHOICE (notes/assumptions/25.md: R115 orders the fields of one event). -/
def State.baseTick (s : State) : State :=
  if s.csu.held then s
  else
    let t := (TickOwner.all.filter fun o => !s.csu.early.contains o).foldl State.tick s
    t.setCsu { t.csu with divider := 512, early := [] }

/-! ## The rows -/

/-- BASE_TICK (R178). -/
def execBaseTick (s : State) : Host.Outcome State Fault Refusal := .next s.baseTick

/-- INTERVAL_EXPIRY (R44). -/
def execIntervalExpiry (slot : Slot) (s : State) : Host.Outcome State Fault Refusal := .next (s.expire (.interval slot))

/-- STALE_LIMIT_EXPIRY (R83). -/
def execStaleLimitExpiry (slot : Slot) (s : State) : Host.Outcome State Fault Refusal := .next (s.expire (.age slot))

/-- HOLD_EXPIRY (R141). -/
def execHoldExpiry (s : State) : Host.Outcome State Fault Refusal := .next (s.expire .hold)

/-- BLINK_TOGGLE (R135). -/
def execBlinkToggle (rate : BlinkRate) (s : State) : Host.Outcome State Fault Refusal := .next (s.expire (.blink rate))

/-- RESTART_END (R183). -/
def execRestartEnd (s : State) : Host.Outcome State Fault Refusal := .next (s.expire .restart)

end Sys2Proof.Machine
end

