-- ==== Sys2Proof/Machine/Dispatch.lean ====
section
/-! DEFINITION. The one match from commands to meanings. -/

namespace Sys2Proof.Machine

/-- The effect of a command on everything but the queue of waiting commands. -/
def exec (i : Instr) (s : State) : Host.Outcome State Fault Refusal :=
  match i with
  | .readStatus payload => Sys2Proof.Machine.execReadStatus payload s
  | .restart payload => Sys2Proof.Machine.execRestart payload s
  | .defineChannel payload => Sys2Proof.Machine.execDefineChannel payload s
  | .modifyChannel payload => Sys2Proof.Machine.execModifyChannel payload s
  | .retireChannel payload => Sys2Proof.Machine.execRetireChannel payload s
  | .readChannel payload => Sys2Proof.Machine.execReadChannel payload s
  | .findChannel payload => Sys2Proof.Machine.execFindChannel payload s
  | .startChannel payload => Sys2Proof.Machine.execStartChannel payload s
  | .suspendChannel payload => Sys2Proof.Machine.execSuspendChannel payload s
  | .measureNow payload => Sys2Proof.Machine.execMeasureNow payload s
  | .pauseSchedule payload => Sys2Proof.Machine.execPauseSchedule payload s
  | .resumeSchedule payload => Sys2Proof.Machine.execResumeSchedule payload s
  | .setCurve payload => Sys2Proof.Machine.execSetCurve payload s
  | .setLimits payload => Sys2Proof.Machine.execSetLimits payload s
  | .setStaleLimit payload => Sys2Proof.Machine.execSetStaleLimit payload s
  | .bindField payload => Sys2Proof.Machine.execBindField payload s
  | .editField payload => Sys2Proof.Machine.execEditField payload s
  | .retargetField payload => Sys2Proof.Machine.execRetargetField payload s
  | .retireField payload => Sys2Proof.Machine.execRetireField payload s
  | .readField payload => Sys2Proof.Machine.execReadField payload s
  | .readOwner payload => Sys2Proof.Machine.execReadOwner payload s
  | .setFieldValue payload => Sys2Proof.Machine.execSetFieldValue payload s
  | .setGlass payload => Sys2Proof.Machine.execSetGlass payload s
  | .holdDisplay payload => Sys2Proof.Machine.execHoldDisplay payload s
  | .releaseDisplay payload => Sys2Proof.Machine.execReleaseDisplay payload s
  | .readPlane payload => Sys2Proof.Machine.execReadPlane payload s
  | .readAttention payload => Sys2Proof.Machine.execReadAttention payload s
  | .ackAttention payload => Sys2Proof.Machine.execAckAttention payload s
  | .setAttentionMask payload => Sys2Proof.Machine.execSetAttentionMask payload s
  | .frameError bytes => Sys2Proof.Machine.execFrameError bytes s
  | .unknownCommand code payload => Sys2Proof.Machine.execUnknownCommand code payload s
  | .commandDropped => Sys2Proof.Machine.execCommandDropped s
  | .fetch part => Sys2Proof.Machine.execFetch s part
  | .cancel => Sys2Proof.Machine.execCancel s
  | .powerOnReset => Sys2Proof.Machine.execPowerOnReset s
  | .rstnAsserted => Sys2Proof.Machine.execRstnAsserted s
  | .resetRelease xsel => Sys2Proof.Machine.execResetRelease xsel s
  | .initialisationEnd => Sys2Proof.Machine.execInitialisationEnd s
  | .restartEnd => Sys2Proof.Machine.execRestartEnd s
  | .baseTick => Sys2Proof.Machine.execBaseTick s
  | .intervalExpiry slot => Sys2Proof.Machine.execIntervalExpiry slot s
  | .staleLimitExpiry slot => Sys2Proof.Machine.execStaleLimitExpiry slot s
  | .holdExpiry => Sys2Proof.Machine.execHoldExpiry s
  | .blinkToggle rate => Sys2Proof.Machine.execBlinkToggle rate s
  | .frameEnd => Sys2Proof.Machine.execFrameEnd s
  | .pick => Sys2Proof.Machine.execPick s
  | .sensorEdge => Sys2Proof.Machine.execSensorEdge s
  | .gateExpiry => Sys2Proof.Machine.execGateExpiry s
  | .edgeTimerExpiry => Sys2Proof.Machine.execEdgeTimerExpiry s
  | .counterOverflow => Sys2Proof.Machine.execCounterOverflow s
  | .render => Sys2Proof.Machine.execRender s
  | .fastClockPeriod => Sys2Proof.Machine.execFastClockPeriod s

end Sys2Proof.Machine
end

