-- ==== Sys2Proof/Machine/Step.lean ====
section
/-! DEFINITION. One step of the machine: the command at the front of the queue, or, with none waiting, the part's own next
event or a period of its slow clock. -/

namespace Sys2Proof.Machine

/-- The part left to itself: its own next event when one is due, and else one period of the slow clock (DESIGN CHOICE,
notes/assumptions/5.md). -/
def idle (s : State) : Host.Outcome State Fault Refusal :=
  match s.ownEvent with
  | none => .next s.slowPeriod
  | some c => exec c s

/-- One step. -/
def step (s : State) : Host.Outcome State Fault Refusal :=
  match s.pending with
  | [] => idle s
  | c :: rest => exec c (s.setPending rest)

/-- The state with the command a table word spells put at the front of the queue; unchanged where it spells none. -/
def State.withFetchWord (s : State) (nbits w : Nat) : State :=
  match decodeTableWord nbits w with
  | none => s
  | some c => s.setPending (c :: s.pending)

end Sys2Proof.Machine
end

