-- ==== Sys2Proof/Machine/Pins.lean ====
section
/-! DEFINITION. What the pins show of a state (R22, R132, R133, R156, R179, R184): views of State, which hold nothing of
their own. -/

namespace Sys2Proof.Machine

/-- ATTN is driven low; otherwise it is released (R156, R184). -/
def State.attnLow (s : State) : Bool := s.au.low

/-- The sensor pin is connected to the oscillator; any other is held at the potential of SNODE (R22, R184). -/
def State.pinConnected (s : State) (p : Pin) : Bool := s.ce.mux = some p

/-- SDO is driven while CS is low and high impedance while CS is high, in reset or not (R184). -/
def State.sdoDriven (s : State) : Bool := s.hp.select ≠ .high

/-- The roles of the shared pin COM3/SEG32 (R137, R184). -/
inductive SharedPin where
  | com3
  | seg32
  deriving DecidableEq, Repr

/-- The shared pin's role under the duty in force (R184). -/
def State.sharedPin (s : State) : SharedPin :=
  match s.gs.settings.duty with
  | .quarter => .com3
  | .third => .seg32

/-- The number of common lines scanned (R132). -/
def Duty.commons : Duty → Nat
  | .quarter => 4
  | .third => 3

/-- The common line selected after `t` slow-clock periods of a frame: each in turn for an equal share of the frame, to
within one period (R132). That the turn is COM0 upward in one pass, and which line's share is the longer by a period when
the frame does not divide equally, is a DESIGN CHOICE (notes/assumptions/21.md: R132 says only "in turn"). -/
def selectedCommon (g : GlassSettings) (t : Nat) : Nat := t * g.duty.commons / g.period.periods

/-- How the common and segment lines are driven at a moment (R132, R184). -/
inductive LineDrive where
  /-- Every common and segment line is driven to VSS. -/
  | vss
  /-- Every common and segment line is held at one level, and no segment carries a voltage. -/
  | level
  /-- The lines are scanned, with this common line selected. -/
  | scan (common : Nat)
  deriving DecidableEq, Repr

/-- The slow-clock period of the frame in progress, counted from 0. Once the frame timer is at 0 the frame has no further
period, and until the frame end is taken its last one stands (DESIGN CHOICE, notes/assumptions/21.md). -/
def State.framePosition (s : State) : Nat := s.gs.settings.period.periods - max s.gs.frameTimer 1

/-- The drive levels of a bias, as numerator and denominator of the drive amplitude (R132). -/
def Bias.levels : Bias → List (Nat × Nat)
  | .third => [(0, 1), (1, 3), (2, 3), (1, 1)]
  | .half => [(0, 1), (1, 2), (1, 1)]

/-- The drive amplitude of a contrast, in hundredths of VDD (11.5). -/
def amplitude (contrast : Fin 4) : Nat := 70 + 10 * contrast.val

/-- A segment state is driven lit in a frame with these blink phases (R133). -/
def SegState.driven (st : SegState) (slowLit fastLit : Bool) : Bool :=
  match st with
  | .off => false
  | .on => true
  | .blinkSlow => slowLit
  | .blinkFast => fastLit

/-- The segment is lit on the glass: driven from the drive fixed for the frame in progress, dark with the display OFF
and while a reset is held (R133, R184). -/
def State.glassLit (s : State) (a : SegAddr) : Bool :=
  !s.csu.held && s.gs.drive.display && s.gs.drive.plane[a].driven s.gs.drive.slowLit s.gs.drive.fastLit

/-- The drive of the common and segment lines: VSS while a reset is held (R184), one level in a frame with the display OFF,
and else the scan, at the position of the frame in progress (R132, R133). -/
def State.lineDrive (s : State) : LineDrive :=
  if s.csu.held then .vss
  else if s.gs.drive.display then .scan (selectedCommon s.gs.settings s.framePosition)
  else .level

end Sys2Proof.Machine
end

