-- ==== Sys2Proof/WellFormed.lean ====
section
/-! DEFINITION. When a command term stands for a row of the table. A request's payload fits a frame (R166: N is 1..62,
one byte of it the code); a frame error's bytes fail the form checks; an unknown command's code is not listed. Every
other operand is bounded by its type. -/

namespace Sys2Proof

/-- The longest payload a COMMAND frame carries (R166). -/
def maxPayload : Nat := 61

/-- The command term stands for a row of spec/opcode_table.json. -/
def wellFormed (c : Instr) : Bool :=
  match c with
  | .frameError bytes => (judgeFrame bytes).isNone
  | .unknownCommand code payload => (requestOf code payload).isNone && payload.length ≤ maxPayload
  | c => match codeOf c with
    | some (_, payload) => payload.length ≤ maxPayload
    | none => true

end Sys2Proof
end

