-- ==== Sys2Proof/Safety.lean ====
section
/-! DEFINITION. What a sound state of the SR-2408 is: the laws the manual states of the records, queues, maps and planes,
each as a predicate on State, and the words the obligations use for the host port's answers. -/

namespace Sys2Proof.Machine

/-! ## The Channel Table -/

/-- The pin ownership map holds exactly the pins of the live channels (R6). -/
def PinLaw (s : State) : Prop :=
  ∀ (i : Slot) (p : Pin), s.ct.pins[p] = some i ↔ ∃ c ∈ s.channel i, c.defn.pin = p

/-- The tag map holds one entry for each live channel, and no two entries have the same tag (R5). -/
def TagLaw (s : State) : Prop :=
  (∀ i : Slot, s.ct.tags[i] = (s.channel i).map fun c => c.defn.tag) ∧
    ∀ i j : Slot, s.ct.tags[i] = s.ct.tags[j] → s.ct.tags[i].isSome → i = j

/-- Every present reference names a live channel in another slot that has no reference of its own and the same method
and counting length (R7). -/
def ReferenceLaw (s : State) : Prop :=
  ∀ i : Slot, ∀ c ∈ s.channel i, ∀ l ∈ c.defn.reference, l.slot ≠ i ∧
    ∃ r ∈ s.channel l.slot, r.defn.reference = none ∧ r.defn.method = c.defn.method ∧ r.defn.countLen = c.defn.countLen

/-! ## Scheduler and engine -/

/-- The due queue holds only live channels, each at most once, never the converting one, and a channel that is not
ACTIVE only while its one-shot is pending (R46). -/
def QueueLaw (s : State) : Prop :=
  s.ms.queue.Nodup ∧ ∀ i ∈ s.ms.queue, s.converting i = false ∧
    ∃ c ∈ s.channel i, c.state = .active ∨ c.sched.oneShot = true

/-- The countdown is absent unless the channel is ACTIVE, and then stands at 1 up to the interval; the one-shot's notice and
unwaited marks stand only with a one-shot pending (3.1, R42, R43). -/
def TimerLaw (s : State) : Prop :=
  ∀ i : Slot, ∀ c ∈ s.channel i,
    1 ≤ c.defn.interval ∧
    (c.state ≠ .active → c.sched.countdown = none) ∧
    (c.state = .active → ∃ n ∈ c.sched.countdown, 1 ≤ n ∧ n ≤ c.defn.interval) ∧
    (c.sched.oneShot = false → c.sched.notice = false ∧ c.sched.unwaited = false)

/-- No pick is left to make: with the CE IDLE no entry of the due queue is eligible (R48). -/
def PickLaw (s : State) : Prop := s.ce.conv = none → ∀ i ∈ s.ms.queue, s.eligible i = false

/-- A conversion in flight is of a live channel, with the context, pin, oscillator and fast clock that channel gives it,
and not of a SUSPENDED channel unless for its one-shot (R22, R23, R24, R32, R179). -/
def ConversionLaw (s : State) (v : Conversion) : Prop :=
  s.ce.oscillator = true ∧ s.csu.fastClock = decide (v.method = .period) ∧ v.count ≤ maxCount ∧
    ∃ c ∈ s.channel v.channel, s.ce.mux = some c.defn.pin ∧ v.method = c.defn.method ∧ v.countLen = c.defn.countLen ∧
      v.timeout = c.defn.timeout ∧ (c.state = .suspended → c.sched.oneShot = true)

/-- The engine: with a conversion in flight its law, and IDLE no pin, no oscillator and no fast clock (R22, R40). -/
def EngineLaw (s : State) : Prop :=
  (∀ v ∈ s.ce.conv, ConversionLaw s v) ∧
    (s.ce.conv = none → s.ce.mux = none ∧ s.ce.oscillator = false ∧ s.csu.fastClock = false)

/-! ## Channel records -/

/-- A mantissa, bound or y value is one that two bytes carry (00_scope.md, "Quantities"). -/
abbrev inMantissa (v : Int) : Prop := -32768 ≤ v ∧ v ≤ 32767

/-- The definition part keeps the ranges of a well-formed definition (R1). -/
def ChannelDef.Law (d : ChannelDef) : Prop :=
  d.tag.wellFormed = true ∧ countLenAllowed d.method d.countLen = true ∧ d.settle ≤ 255 ∧
    8 ≤ d.timeout ∧ d.timeout ≤ 1024 ∧ 1 ≤ d.interval ∧ d.interval ≤ 16383 ∧
    ∀ l ∈ d.reference, 1 ≤ l.maxAge ∧ l.maxAge ≤ 16383

/-- The quantities of a result keep their ranges (00_scope.md, "Quantities"; 4.1). -/
def Result.RangeLaw (r : Result) : Prop :=
  (∀ n ∈ r.raw, n ≤ 16777215) ∧ (∀ n ∈ r.ratio, n ≤ 65535) ∧ (∀ v ∈ r.value, inMantissa v) ∧
    (∀ a ∈ r.age, a ≤ 65535) ∧ r.seq ≤ 65535

/-- Which parts of a result are present with each outcome, and the value agreeing with the stored input and the curve
(R63, R71, R72, R81). -/
def Channel.ResultLaw (c : Channel) : Prop :=
  match c.result.outcome with
  | .none => c.result = Result.cleared c.result.seq
  | .noSignal => c.result.raw = none ∧ c.result.ratio = none ∧ c.result.value = none
  | .overflow => c.result.ratio = none ∧ c.result.value = none
  | .noReference => c.result.raw.isSome ∧ c.result.ratio = none ∧ c.result.value = none
  | o => c.result.raw.isSome ∧ c.result.ratio.isSome = c.defn.reference.isSome ∧
      match c.curve with
      | none => o = .good ∧ c.result.value = none
      | some k => ∃ x ∈ c.input, k.apply x = (o, c.result.value.getD 0) ∧ c.result.value.isSome

/-- The age is present exactly when the outcome is not NONE, and the freshness is the one that the stale limit gives the
age: STALE at a nonzero limit reached, and FRESH otherwise (R81, R82). -/
def Channel.FreshnessLaw (c : Channel) : Prop :=
  c.staleLimit ≤ 16383 ∧ c.result.age.isSome = decide (c.result.outcome ≠ .none) ∧
    c.result.freshness =
      c.result.age.map fun a => if c.staleLimit ≠ 0 ∧ c.staleLimit ≤ a then .stale else .fresh

/-- A present limit set is valid; without limits the state is NORMAL, without a high bound never HIGH and without a low
bound never LOW (R86). -/
def Channel.LimitLaw (c : Channel) : Prop :=
  (∀ l ∈ c.limits, l.valid = true ∧ l.hysteresis ≤ 1000 ∧ (∀ b ∈ l.low, inMantissa b) ∧ ∀ h ∈ l.high, inMantissa h) ∧
    (c.result.limit = .high → ∃ l ∈ c.limits, l.high.isSome = true) ∧
    (c.result.limit = .low → ∃ l ∈ c.limits, l.low.isSome = true)

/-- A present curve has decimals 0..3 and 2..8 breakpoints with strictly increasing x values, all in the range of the
channel's curve input, and y values in range (R70). -/
def Channel.CurveLaw (c : Channel) : Prop :=
  ∀ k ∈ c.curve, k.decimals ≤ 3 ∧ 2 ≤ k.points.length ∧ curveOk c.defn k.points = true ∧
    ∀ b ∈ k.points, inMantissa b.y

/-- Every channel's definition, result, freshness, limits and curve keep their laws, and the count of a conversion in
flight its range (R32). -/
def RecordLaw (s : State) : Prop :=
  (∀ v ∈ s.ce.conv, v.count ≤ 16777215) ∧
  ∀ i : Slot, ∀ c ∈ s.channel i,
    c.defn.Law ∧ c.ResultLaw ∧ c.result.RangeLaw ∧ c.FreshnessLaw ∧ c.LimitLaw ∧ c.CurveLaw

/-! ## Fields and planes -/

/-- A kind's parameters are well-formed (R97). -/
def FieldKind.Law (k : FieldKind) : Prop :=
  match k with
  | .numeric width _ _ decimals => 1 ≤ width ∧ width ≤ 6 ∧ decimals ≤ 3 ∧ decimals < width
  | .bar lo hi => inMantissa lo ∧ inMantissa hi ∧ lo < hi
  | .indicator _ => True
  | .pattern => True

/-- Host data keep the range of what a frame carries (R100). -/
def HostDatum.Law (d : HostDatum) : Prop :=
  match d with
  | .value m => inMantissa m
  | .flag _ => True
  | .pattern e => e.length ≤ 32

/-- Every field's parameters are well-formed; its source is admitted by its kind, and a channel source's handle is
accepted; host data is present only while the source is HOST and matches the kind; the list has a length the kind allows (R97, R98, R99, R100). -/
def SourceLaw (s : State) : Prop :=
  ∀ f : FieldIx, ∀ d ∈ s.field f,
    d.kind.Law ∧ (∀ x ∈ d.hostData, x.Law) ∧ admits d.kind d.source = true ∧ s.sourceLive d.source = true ∧ lengthAllowed d.kind d.segs.length = true ∧
      (d.hostData.isSome → d.source = .host) ∧ formMatches d.kind d.hostData = true ∧
      patternFits d.segs.length d.hostData = true

/-- A segment is owned by field F exactly when F is live and F's segment list holds it, and no live field lists an address
twice or outside the current geometry (R98, R101). -/
def OwnerLaw (s : State) : Prop :=
  (∀ (a : SegAddr) (f : FieldIx), s.ft.owners[a] = some f ↔ ∃ d ∈ s.field f, a ∈ d.segs) ∧
    ∀ f : FieldIx, ∀ d ∈ s.field f, d.segs.Nodup ∧ ∀ a ∈ d.segs, inGeometry s.gs.settings.duty a = true

/-- Every segment that no field owns is OFF in the pending plane (R118). -/
def PlaneLaw (s : State) : Prop := ∀ a : SegAddr, s.ft.owners[a] = none → s.re.plane[a] = .off

/-- When the changed mark is clear, the shown plane equals the pending plane at every address (R134). -/
def ShownLaw (s : State) : Prop := s.re.changed = false → s.gs.shown = s.re.plane

/-- The render queue holds only live fields, each at most once (R114). -/
def RenderQueueLaw (s : State) : Prop := s.re.queue.Nodup ∧ ∀ f ∈ s.re.queue, (s.field f).isSome = true

/-- Pending settings belong to a waiting SET_GLASS, remove no owned address and meet no hold; a set never pairs bias 1/2
with duty 1/4 (R102, R131, R142, R143). -/
def GlassLaw (s : State) : Prop :=
  (s.gs.pendingSettings.isSome ↔ s.hp.waiting = some .setGlass) ∧
    (∀ g ∈ s.gs.pendingSettings, (g.bias = .half → g.duty = .third) ∧ s.gs.hold = none ∧
      ∀ a : SegAddr, s.ft.owners[a].isSome → inGeometry g.duty a = true) ∧
    (s.gs.settings.bias = .half → s.gs.settings.duty = .third)

/-- The frame timer, the divider and the initialisation count are no longer than they start with, the hold timer is 1..255,
and the blink counts 1..32 and 1..8 (R135, R136, R139, R178, R181). -/
def CountLaw (s : State) : Prop :=
  s.gs.frameTimer ≤ 1024 ∧ s.csu.divider ≤ 512 ∧ (∀ n ∈ s.csu.initCount, n ≤ 1024) ∧
    (∀ n ∈ s.gs.hold, 1 ≤ n ∧ n ≤ 255) ∧ 1 ≤ s.gs.slow.count ∧ s.gs.slow.count ≤ 32 ∧ 1 ≤ s.gs.fast.count ∧
    s.gs.fast.count ≤ 8

/-! ## Attention and the host port -/

/-- The attention set holds a channel's pairs only while the channel is live (R149). -/
def PairLaw (s : State) : Prop := ∀ i : Slot, s.au.channels[i].any = true → (s.channel i).isSome = true

/-- What the port state says of the response slot and the command in progress (10.3, R164); while a reset is held the
port is in INIT, and in a transaction whose bytes will be judged nothing is shifted out yet (R180). -/
def PortLaw (s : State) : Prop :=
  (s.hp.port = .busy ↔ s.hp.waiting.isSome = true) ∧ (s.hp.port = .done ↔ s.hp.response.isSome = true) ∧
    (s.csu.held = true → s.hp.port = .init ∧ ∀ b, s.hp.select = .low b → s.hp.sdo = [])

/-- A waiting MEASURE_NOW has its channel live, its one-shot pending with the notice set, and the channel queued or
converting, so that a completion will answer it (R42, R57, R58). -/
def WaitLaw (s : State) : Prop :=
  ∀ i : Slot, s.hp.waiting = some (.measureNow i) →
    (s.queued i = true ∨ s.converting i = true) ∧
      ∃ c ∈ s.channel i, c.sched.oneShot = true ∧ c.sched.notice = true

/-! ## Groups of laws that a step keeps together -/

/-- The Channel Table's laws together. -/
def TableLaws (s : State) : Prop := PinLaw s ∧ TagLaw s ∧ ReferenceLaw s

/-- The schedule's laws together. -/
def ScheduleLaws (s : State) : Prop := QueueLaw s ∧ EngineLaw s ∧ TimerLaw s ∧ PickLaw s

/-- The display's laws together. -/
def DisplayLaws (s : State) : Prop :=
  OwnerLaw s ∧ PlaneLaw s ∧ RenderQueueLaw s ∧ GlassLaw s ∧ PortLaw s ∧ CountLaw s

/-- The host port's laws together. -/
def WaitLaws (s : State) : Prop := PortLaw s ∧ QueueLaw s ∧ WaitLaw s

/-! ## Words of the obligations: the host port -/

/-- No reset is held, and none fell in the transaction that ends or was held in its first byte (R161, R180). -/
abbrev State.judges (s : State) : Prop := s.csu.held = false ∧ s.hp.select ≠ .dead

/-- The port takes a COMMAND frame: it judges the transaction and is IDLE or DONE (R164, R167). -/
abbrev State.takes (s : State) : Prop := s.judges ∧ (s.hp.port = .idle ∨ s.hp.port = .done)

/-- The port drops a COMMAND frame: it judges the transaction and is BUSY or INIT (R165). -/
abbrev State.drops (s : State) : Prop := s.judges ∧ (s.hp.port = .busy ∨ s.hp.port = .init)

/-- The host port after a transaction that ended in `s` with the status byte `st` and then `more` shifted out (R161). -/
def State.shifted (s : State) (st : Byte) (more : List Byte) : HostPort :=
  { s.hp with select := .high, sdo := st :: more }

/-- The host port after a frame taken in `s` that answered at once: the response stored, the overrun flag cleared, the
port DONE, CS high, and the status byte of the transaction shifted out (R161, R164, R167). -/
def State.answered (s : State) (code : ResultCode) (payload : List Byte) : HostPort :=
  { port := .done, waiting := none, response := some { code := code, payload := payload }, overrun := false
    powerOn := s.hp.powerOn, select := .high, sdo := [s.shownStatus] }

/-- The host port after a frame taken in `s` whose request waits (R167). -/
def State.waitingPort (s : State) (w : Waiting) : HostPort :=
  { port := .busy, waiting := some w, response := none, overrun := false, powerOn := s.hp.powerOn
    select := .high, sdo := [s.shownStatus] }

/-- The host port after a waiting request of `s` ended with a response (R168). -/
def State.ended (s : State) (code : ResultCode) (payload : List Byte) : HostPort :=
  { s.hp with port := .done, waiting := none, response := some { code := code, payload := payload } }

/-- The host port after a waiting request of `s` was ended by a CANCEL transaction (R170). -/
def State.cancelled (s : State) : HostPort :=
  { s.ended .cancelled [] with select := .high, sdo := [s.shownStatus] }

/-- The command comes in a COMMAND frame: a request, an unknown command, a frame error or a dropped frame. -/
def isFrame (c : Instr) : Bool :=
  wellFormed c && ((codeOf c).isSome || match c with
    | .frameError _ => true
    | .commandDropped => true
    | _ => false)

/-- A request's payload has the length the table of R175 gives its command; every other command passes. -/
def lengthMatches (c : Instr) : Bool :=
  match c with
  | .readStatus p => p.length = 0
  | .restart p => p.length = 0
  | .defineChannel p => p.length = 17
  | .modifyChannel p => p.length = 18
  | .retireChannel p => p.length = 1
  | .readChannel p => p.length = 1
  | .findChannel p => p.length = 4
  | .startChannel p => p.length = 1
  | .suspendChannel p => p.length = 1
  | .measureNow p => p.length = 2
  | .pauseSchedule p => p.length = 0
  | .resumeSchedule p => p.length = 0
  | .setCurve p => 3 ≤ p.length && p.length = 3 + 5 * (byteAt p 2).toNat
  | .setLimits p => p.length = 10
  | .setStaleLimit p => p.length = 3
  | .bindField p => 11 ≤ p.length && p.length = 11 + (byteAt p 10).toNat
  | .editField p => p.length = 10
  | .retargetField p => p.length = 3
  | .retireField p => p.length = 1
  | .readField p => p.length = 1
  | .readOwner p => p.length = 1
  | .setFieldValue p => valueLengthOk p
  | .setGlass p => p.length = 5
  | .holdDisplay p => p.length = 1
  | .releaseDisplay p => p.length = 0
  | .readPlane p => p.length = 1
  | .readAttention p => p.length = 0
  | .ackAttention p => p.length = 1
  | .setAttentionMask p => p.length = 1
  | _ => true

/-- The target byte of a request that names a channel, of the right length and with its other bytes well-formed. -/
def channelTarget (c : Instr) : Option Byte :=
  match c with
  | .retireChannel [b] => some b
  | .readChannel [b] => some b
  | .startChannel [b] => some b
  | .suspendChannel [b] => some b
  | .measureNow [b, w] => if (yesNo w).isSome then some b else none
  | .setStaleLimit [b, x, y] => if word16 [b, x, y] 1 ≤ 16383 then some b else none
  | .setLimits p => if p.length = 10 ∧ (decodeLimits p).isSome then some (byteAt p 0) else none
  | .setCurve p =>
    if curveLengthOk p ∧ (byteAt p 2 = 0#8 ∨ (byteAt p 1).toNat ≤ 3) then some (byteAt p 0) else none
  | .modifyChannel p => if p.length = 18 ∧ (decodeDef p 1).isSome then some (byteAt p 0) else none
  | _ => none

/-- The target byte of a request that names a field, of the right length and with its other bytes well-formed. -/
def fieldTarget (c : Instr) : Option Byte :=
  match c with
  | .retireField [b] => some b
  | .readField [b] => some b
  | .retargetField [b, x, y] => if (decodeSource x y).isSome then some b else none
  | .editField p => if p.length = 10 ∧ (decodeAppearance p).isSome then some (byteAt p 0) else none
  | .setFieldValue p => if valueLengthOk p ∧ (decodeDatum p).isSome then some (byteAt p 0) else none
  | _ => none

/-! ## Words of the obligations: records, queues and engine -/

/-- The Channel Table with another record in a live slot. -/
def State.tableWith (s : State) (i : Slot) (c : Channel) : ChannelTable :=
  { s.ct with slots := vput s.ct.slots i { gen := s.ct.slots[i].gen, occupant := some c } }

/-- The Field Table with another record in a bound slot. -/
def State.fieldsWith (s : State) (f : FieldIx) (d : Field) : FieldTable :=
  { s.ft with slots := vput s.ft.slots f { gen := s.ft.slots[f].gen, occupant := some d } }

/-- The scheduler with another due queue. -/
def State.queueOf (s : State) (q : List Slot) : Scheduler := { s.ms with queue := q }

/-- The engine after a request that abandons the conversion of a channel, if one is in flight (R35, R36). -/
def State.engineWithout (s : State) (i : Slot) : Engine :=
  if s.converting i then { conv := none, mux := none, oscillator := false } else s.ce

/-- The clock unit after a request that abandons the conversion of a channel, if one is in flight (R36, R179). -/
def State.clocksWithout (s : State) (i : Slot) : ClockUnit :=
  if s.converting i then { s.csu with fastClock := false } else s.csu

/-- The renderer after fields were marked dirty by one event: those not queued join the tail in the order given
(R114, R115). -/
def State.dirtied (s : State) (fs : List FieldIx) : Renderer :=
  { s.re with queue := s.re.queue ++ fs.filter fun f => !s.re.queue.contains f }

/-- The engine that has just taken the start of a channel (R22, R24, R28, R30). -/
def startedEngine (i : Slot) (d : ChannelDef) : Engine :=
  { conv := some
      { phase := if d.settle = 0 then .counting else .settling
        channel := i
        method := d.method
        countLen := d.countLen
        timeout := d.timeout
        settleRemaining := d.settle
        opened := false
        periodsRemaining := if d.method = .period then d.countLen else 0
        count := 0
        edgeTimer := d.timeout * 32
        gateTimer := if d.settle = 0 ∧ d.method = .window then some (d.countLen * 32) else none }
    mux := some d.pin
    oscillator := true }

/-- The mark of a pair after an event that raises it when `cond` holds (R150). -/
def raisedIf (cond : Bool) (m : Mark) : Mark := if cond then .unseen else m

/-- The attention unit after raises for one channel (R150). -/
def State.pairsRaised (s : State) (i : Slot) (result limit quality oneShot : Bool) : Attention :=
  { s.au with
    channels := vput s.au.channels i
      { result := raisedIf result s.au.channels[i].result
        limit := raisedIf limit s.au.channels[i].limit
        quality := raisedIf quality s.au.channels[i].quality
        oneShot := raisedIf oneShot s.au.channels[i].oneShot } }

/-- The state after the completion of the conversion in flight, of channel `c` in slot `i`, with the result part `r`, up to
the pick that the event ends with: the engine stopped, the record and its one-shot and late marks, the raises, the dirty
marks, and the answer of a waiting MEASURE_NOW (R33, R53, R64, R73, R74). -/
def State.completedWith (s : State) (i : Slot) (c : Channel) (r : Result) : State :=
  { s with
    ct := s.tableWith i { c with
      result := r
      sched := { c.sched with oneShot := false, notice := false, unwaited := false, late := false } }
    ce := { conv := none, mux := none, oscillator := false }
    csu := { s.csu with fastClock := false }
    au := s.pairsRaised i c.defn.notify (r.limit ≠ c.result.limit)
      (r.outcome ≠ c.result.outcome || c.result.freshness ≠ some .fresh) (c.sched.oneShot && c.sched.notice)
    re := s.dirtied (s.fieldsOf i)
    hp := if s.hp.waiting = some (.measureNow i) then s.ended .ok (resultPart r) else s.hp }

/-- An entry of the due queue is eligible: any in RUN, and in PAUSED one whose channel's one-shot is pending (R48). -/
abbrev State.mayStart (s : State) (i : Slot) : Prop :=
  s.ms.mode = .run ∨ ∃ c ∈ s.channel i, c.sched.oneShot = true

/-- A result is usable within a ref max age, and `d` is its raw count: the outcome GOOD, UNDER or OVER, the raw count not 0,
and the age no more than the ref max age (R50). -/
abbrev Result.usableWith (r : Result) (maxAge d : Nat) : Prop :=
  (r.outcome = .good ∨ r.outcome = .under ∨ r.outcome = .over) ∧ r.raw = some d ∧ d ≠ 0 ∧ ∃ a ∈ r.age, a ≤ maxAge

/-- The channel an entry names is the first eligible one of the due queue (R48). -/
abbrev State.firstEligible (s : State) (h : Slot) : Prop :=
  s.mayStart h ∧ ∃ front back, s.ms.queue = front ++ h :: back ∧ ∀ i ∈ front, ¬s.mayStart i

/-- A supplied definition meets the reference check of R7, `target` being the channel modified. -/
abbrev State.refSound (s : State) (target : Option Slot) (q : DefReq) : Prop :=
  ∀ r ∈ q.ref, ∃ c ∈ s.accept r.slot r.gen, target ≠ some r.slot ∧ c.defn.reference = none ∧
    c.defn.method = q.method ∧ c.defn.countLen = q.countLen

/-- The first FREE channel slot (R10). -/
abbrev State.firstFree (s : State) (i : Slot) : Prop :=
  s.channel i = none ∧ ∀ j : Slot, j < i → (s.channel j).isSome = true

/-- The first FREE field slot (R94). -/
abbrev State.firstFreeField (s : State) (f : FieldIx) : Prop :=
  s.field f = none ∧ ∀ g : FieldIx, g < f → (s.field g).isSome = true

/-- No live channel's reference names the slot (R8). -/
abbrev State.noReferrer (s : State) (i : Slot) : Prop :=
  ∀ j : Slot, ∀ d ∈ s.channel j, ∀ l ∈ d.defn.reference, l.slot ≠ i

/-- A drive of the glass that begins with the planes, settings and phases of a state, the polarity reversed (R132,
R133). -/
def State.nextDrive (s : State) (shown : Plane) (display : Bool) : Drive :=
  { plane := shown, display := display, slowLit := s.gs.slow.lit, fastLit := s.gs.fast.lit
    reversed := !s.gs.drive.reversed }

/-- A report is the given bytes but for its open bits, the ones of `open'` (R176). -/
def sameBut (open' given report : List Byte) : Prop :=
  report.length = given.length ∧
    ∀ k : Nat, k < given.length →
      byteAt report k &&& ~~~(byteAt open' k) = byteAt given k &&& ~~~(byteAt open' k)

/-- `v` is the whole number nearest to e / w for a positive w, and of the two nearest at a tie the one farther from zero
(00_scope.md, "Quantities"; R71). -/
abbrev nearestAway (e w v : Int) : Prop :=
  2 * (v * w - e).natAbs ≤ w.natAbs ∧ (2 * (v * w - e).natAbs = w.natAbs → e.natAbs ≤ (v * w).natAbs)

end Sys2Proof.Machine
end

