-- ==== Sys2Proof/Certificates/Slice0/Obligations.lean ====
section
/-! DEFINITION. The statements for the provers. Each statement about a command gives the whole next state: a part of the
state that its equation does not name is unchanged. -/

open Sys2Proof Sys2Proof.Machine

/-! ## Frames and steps -/

/-- R163, R166, R175: the transaction that carries a request, an unknown command or CANCEL spells that command and no other,
whatever bytes the host sends after the frame; a frame error is its own bytes, and a FETCH its first byte and the number of
bytes after it; a transaction with another first byte, or with none, is a status poll. -/
def Obligations.FrameRoundTrip : Prop :=
  (∀ (c : Instr) (bytes extra : List Byte), wellFormed c = true → ((codeOf c).isSome = true ∨ c = .cancel) →
    transactionFor c = some bytes → transactionOf (bytes ++ extra) = c) ∧
  (∀ b : List Byte, wellFormed (.frameError b) = true → transactionOf (0x5C#8 :: b) = .frameError b) ∧
  (∀ (part : FetchPart) (bytes : List Byte), transactionFor (.fetch part) = some bytes →
    transactionOf bytes = .fetch part) ∧
  transactionOf [] = .fetch .poll ∧
  ∀ (b : Byte) (rest : List Byte), b ≠ 0x5C#8 → b ≠ 0x3A#8 → b ≠ 0xC3#8 → transactionOf (b :: rest) = .fetch .poll

/-- R163, R166, R175, R176 and the frames of 12.1: transactions written out byte by byte; the lengths 62 and 63, each with
all its bytes and the right check byte, stand on the two sides of the bound. -/
def Obligations.SampleTransactions : Prop :=
  transactionOf [0x5C#8, 1#8, 0x01#8, 0x12#8] = .readStatus [] ∧
  judgeFrame [1#8, 0x01#8, 0x12#8] = some (0x01#8, []) ∧
  judgeFrame [1#8, 0x01#8, 0x13#8] = none ∧ judgeFrame [0#8] = none ∧ judgeFrame [2#8, 0x01#8, 0x12#8] = none ∧
  judgeFrame (62#8 :: 0x01#8 :: List.replicate 61 0#8 ++ [crc8 (62#8 :: 0x01#8 :: List.replicate 61 0#8)])
    = some (0x01#8, List.replicate 61 0#8) ∧
  judgeFrame (63#8 :: 0x01#8 :: List.replicate 62 0#8 ++ [crc8 (63#8 :: 0x01#8 :: List.replicate 62 0#8)]) = none ∧
  transactionOf [0x3A#8, 0#8] = .fetch (.reads 1) ∧ transactionOf [0xC3#8] = .cancel ∧
  transactionOf [0x00#8, 0x5C#8] = .fetch .poll ∧
  transactionOf [0x5C#8, 1#8, 0x62#8, 0x3C#8] = .releaseDisplay []

/-- The command at the front of the queue is run on the state with the queue's rest. The queue of waiting commands is the
model's own choice (notes/assumptions/19.md): the manual's steps (95_what_each_step_holds.md) speak of none. -/
def Obligations.StepTakesFront : Prop :=
  ∀ (c : Instr) (rest : List Instr) (s : State), s.pending = c :: rest → step s = exec c { s with pending := rest }

/-- notes/assumptions/5.md (a choice of the model): with no command waiting, a held part stands still; a part that is not
held takes the first event that is due, in a fixed order, and else one period of its slow clock. Which events are due is
R25, R28, R48, R114, R136, R178 and R181: the gate timer of a WINDOW conversion that counts, the edge timer, the
initialisation count in INIT, the frame timer or the base-tick divider has run out, a pick is to make, a field is dirty. -/
def Obligations.StepOnEmptyQueue : Prop :=
  ∀ s : State, s.pending = [] →
    (s.csu.held = true → step s = .next s) ∧
    (s.csu.held = false → ∀ c, s.dueEvents.head? = some c → step s = exec c s) ∧
    (s.csu.held = false → s.dueEvents = [] → step s = .next { s with
      csu := { s.csu with divider := s.csu.divider - 1, initCount := s.csu.initCount.map fun n => n - 1 }
      gs := { s.gs with frameTimer := s.gs.frameTimer - 1 }
      ce := { s.ce with conv := s.ce.conv.map fun v =>
        { v with edgeTimer := v.edgeTimer - 1, gateTimer := v.gateTimer.map fun n => n - 1 } } }) ∧
    s.dueEvents.Sublist
      [.gateExpiry, .edgeTimerExpiry, .initialisationEnd, .frameEnd, .baseTick, .pick, .render] ∧
    (.gateExpiry ∈ s.dueEvents ↔
      ∃ v ∈ s.ce.conv, v.phase = .counting ∧ v.method = .window ∧ v.gateTimer = some 0) ∧
    (.edgeTimerExpiry ∈ s.dueEvents ↔ ∃ v ∈ s.ce.conv, v.edgeTimer = 0) ∧
    (.initialisationEnd ∈ s.dueEvents ↔ s.hp.port = .init ∧ s.csu.initCount = some 0) ∧
    (.frameEnd ∈ s.dueEvents ↔ s.gs.frameTimer = 0) ∧
    (.baseTick ∈ s.dueEvents ↔ s.csu.divider = 0) ∧
    (.pick ∈ s.dueEvents ↔ s.ce.conv = none ∧ ∃ i ∈ s.ms.queue, s.mayStart i) ∧
    (.render ∈ s.dueEvents ↔ s.re.queue ≠ [])

/-! ## The host port -/

/-- R161, R165, R180: a COMMAND frame that ends in BUSY or INIT is dropped, the overrun flag is set and nothing else changes
but the bytes shifted out; while a reset holds the part, and in a transaction in which a reset fell, no transaction has an
effect, and SDO sends FFh after what it had sent before the reset, which is nothing where CS was high. A transaction
of whose first byte an edge was taken while a reset was held is one of these also when it ends after the release, where
R165 drops frames with overrun: the model's choice (notes/assumptions/8.md). -/
def Obligations.FramesNotTaken : Prop :=
  ∀ (c : Instr) (s : State),
    (isFrame c = true → s.drops →
      exec c s = .next { s with hp := { s.shifted s.shownStatus [] with overrun := true } }) ∧
    ((isFrame c = true ∨ c = .cancel ∨ c = .fetch .poll ∨ ∃ n, c = .fetch (.reads n)) →
      (s.csu.held = true ∨ s.hp.select = .dead) →
      exec c s = .next { s with hp := { s.hp with
        select := .high
        sdo := if s.hp.select = .high then [] else s.hp.sdo } })

/-- R166, R167, R175: a frame error is answered BAD_FRAME, an unlisted code UNKNOWN_COMMAND, and a request whose payload has
another length than the table of commands gives BAD_LENGTH, with no other effect. -/
def Obligations.FormRefusals : Prop :=
  ∀ s : State, s.takes →
    (∀ b, judgeFrame b = none → exec (.frameError b) s = .next { s with hp := s.answered .badFrame [] }) ∧
    (∀ code p, requestOf code p = none →
      exec (.unknownCommand code p) s = .next { s with hp := s.answered .unknownCommand [] }) ∧
    ∀ c, lengthMatches c = false → exec c s = .next { s with hp := s.answered .badLength [] }

/-- R172: READ_STATUS reports the identity bytes, the counts of live channels and fields, the schedule mode, the engine's
state and channel, the display byte and the power-on flag, and clears the power-on flag. That the engine's state is the one
that stands at the request is the model's choice between two sentences of R39 (notes/assumptions/20.md). -/
def Obligations.ReadStatus : Prop :=
  ∀ s : State, s.takes → exec (.readStatus []) s = .next { s with
    hp := { s.answered .ok
      [0x24#8, 1#8, BitVec.ofNat 8 ((List.finRange 8).filter fun i => (s.channel i).isSome).length,
       BitVec.ofNat 8 ((List.finRange 24).filter fun f => (s.field f).isSome).length,
       (if s.ms.mode = .paused then 1#8 else 0#8),
       (match s.ce.conv with
         | none => 0#8
         | some v => if v.phase = .settling then 1#8 else 2#8),
       (match s.ce.conv with
         | none => 0xFF#8
         | some v => chanByte v.channel s.ct.slots[v.channel].gen),
       BitVec.ofNat 8 ((if s.gs.settings.display then 1 else 0) + (if s.gs.hold.isSome then 2 else 0)
         + (if s.gs.settings.duty = .third then 4 else 0)),
       (if s.hp.powerOn then 1#8 else 0#8)] with
      powerOn := false } }

/-- R161, R163, R169, R173, R176: the status byte of a transaction is the one formed at the falling edge of CS, whatever comes
before its end; FETCH shifts out that byte and then, as far as the host clocks it, the frame of the stored response in
DONE (length, code, payload, check byte), the NO_RESPONSE frame in IDLE and the NOT_READY frame in BUSY and INIT; a status
poll shifts out the status byte; neither changes anything else. After `n` clock edges of the first byte, of 8, its upper
`n` bits are out, the rest to be ones if a reset falls. A falling edge while a reset is held begins a transaction like any
other, unless an edge of its first byte is taken before the release. That the table's FETCH row carries the falling edge, clock edges
and the polls is a choice of the model (notes/assumptions/8.md). -/
def Obligations.FetchAndChipSelect : Prop :=
  ∀ s : State,
    exec (.fetch .falls) s = .next { s with hp := { s.hp with select := .low (statusByte s), sdo := [] } } ∧
    (∀ b n, s.csu.held = true → s.hp.select = .low b →
      (n = 0 → exec (.fetch (.clocked n)) s = .next s) ∧
      (0 < n → exec (.fetch (.clocked n)) s = .next { s with hp := { s.hp with select := .dead } })) ∧
    (∀ b n, s.csu.held = false → s.hp.select = .low b → ∃ out : Byte,
      exec (.fetch (.clocked n)) s = .next { s with hp := { s.hp with sdo := [out] } } ∧
      ∀ j : Nat, j < 8 → out.getMsbD j = if j < n then b.getMsbD j else true) ∧
    (∀ n, (∀ b, s.hp.select ≠ .low b) → exec (.fetch (.clocked n)) s = .next s) ∧
    (∀ b, s.hp.select = .low b → s.shownStatus = b) ∧ (s.hp.select = .high → s.shownStatus = statusByte s) ∧
    (s.judges →
      exec (.fetch .poll) s = .next { s with hp := s.shifted s.shownStatus [] } ∧
      ∀ n : Nat,
        (∀ r, s.hp.port = .done → s.hp.response = some r → exec (.fetch (.reads n)) s = .next { s with
          hp := s.shifted s.shownStatus
            ((BitVec.ofNat 8 (r.payload.length + 1) :: r.code.byte :: r.payload ++
              [crc8 (BitVec.ofNat 8 (r.payload.length + 1) :: r.code.byte :: r.payload)]).take n) }) ∧
        (s.hp.port = .idle → exec (.fetch (.reads n)) s =
          .next { s with hp := s.shifted s.shownStatus (([1#8, 0x16#8, 0x77#8] : List Byte).take n) }) ∧
        (s.hp.port = .busy ∨ s.hp.port = .init → exec (.fetch (.reads n)) s =
          .next { s with hp := s.shifted s.shownStatus (([1#8, 0x17#8, 0x70#8] : List Byte).take n) }))

/-- R48, R59, R145, R170: CANCEL ends a waiting MEASURE_NOW and a waiting SET_GLASS with CANCELLED, each with its owner's
handling, a MEASURE_NOW's with the pick that may follow it, and otherwise has no effect but the bytes shifted out. -/
def Obligations.Cancel : Prop :=
  ∀ s : State, s.judges →
    (∀ i c, s.hp.waiting = some (.measureNow i) → s.channel i = some c →
      (c.sched.unwaited = true → exec .cancel s = .next ({ s with hp := s.cancelled } : State).pick) ∧
      (c.sched.unwaited = false → s.converting i = true → exec .cancel s = .next ({ s with
        ct := s.tableWith i { c with sched := { c.sched with notice := false } }
        hp := s.cancelled } : State).pick) ∧
      (c.sched.unwaited = false → s.converting i = false → c.state = .active → exec .cancel s = .next ({ s with
        ct := s.tableWith i { c with sched := { c.sched with oneShot := false, notice := false } }
        hp := s.cancelled } : State).pick) ∧
      (c.sched.unwaited = false → s.converting i = false → c.state ≠ .active → exec .cancel s = .next ({ s with
        ct := s.tableWith i { c with
          sched := { c.sched with oneShot := false, notice := false, refTried := false } }
        ms := s.queueOf (s.ms.queue.erase i)
        hp := s.cancelled } : State).pick)) ∧
    (s.hp.waiting = some .setGlass → exec .cancel s = .next { s with
      gs := { s.gs with pendingSettings := none }
      hp := s.cancelled }) ∧
    (s.hp.waiting = none ∨ s.hp.waiting = some .restart →
      exec .cancel s = .next { s with hp := s.shifted s.shownStatus [] })

/-! ## Resets, start-up and time -/

/-- R20, R40, R62, R112, R130, R147, R159, R173: the power-on reset leaves every slot FREE with generation 0, the maps and
queues empty, the engine idle, the planes dark, the power-on glass settings, both blink phases on with counts 32 and 8,
the frame timer at 512, no hold, no attention cause, every kind unmasked, and the port in INIT with both flags clear. -/
def Obligations.ResetValues : Prop :=
  (∀ i : Slot, State.reset.ct.slots[i] = { gen := 0, occupant := none } ∧ State.reset.ct.tags[i] = none) ∧
  (∀ p : Pin, State.reset.ct.pins[p] = none) ∧
  State.reset.ms = { queue := [], mode := .run } ∧
  State.reset.ce = { conv := none, mux := none, oscillator := false } ∧
  (∀ f : FieldIx, State.reset.ft.slots[f] = { gen := 0, occupant := none }) ∧
  (∀ a : SegAddr, State.reset.ft.owners[a] = none ∧ State.reset.re.plane[a] = .off ∧ State.reset.gs.shown[a] = .off) ∧
  State.reset.re.queue = [] ∧ State.reset.re.changed = false ∧
  State.reset.gs.settings = { duty := .quarter, bias := .third, period := .p512, contrast := 2, display := false } ∧
  State.reset.gs.pendingSettings = none ∧ State.reset.gs.frameTimer = 512 ∧
  State.reset.gs.slow = { lit := true, count := 32 } ∧ State.reset.gs.fast = { lit := true, count := 8 } ∧
  State.reset.gs.hold = none ∧
  (∀ i : Slot, State.reset.au.channels[i].any = false) ∧ State.reset.au.holdExpired = .absent ∧
  State.reset.au.restarted = none ∧ State.reset.au.mask = 0#6 ∧
  State.reset.hp.port = .init ∧ State.reset.hp.waiting = none ∧ State.reset.hp.response = none ∧
  State.reset.hp.overrun = false ∧ State.reset.hp.powerOn = false

/-- R161, R173, R177, R180, R181: the power-on reset and RSTN put every unit at its power-on values and hold the part, with
their reason, a transaction in progress ending for the port with the record of what it had shifted out kept, and RSTN under a held power-on reset making no reset of its
own; the release samples XSEL and starts the divider, the initialisation count and the frame timer; the end of the
initialisation makes the port IDLE and raises RESTARTED with the reason, setting the power-on flag after power-on.
That the sampled clock source is kept until the next release is a choice of the model (notes/assumptions/3.md). -/
def Obligations.ResetsAndStartUp : Prop :=
  ∀ s : State,
    exec .powerOnReset s = .next { State.reset with
      hp := { State.reset.hp with select := if s.hp.select = .high then .high else .dead, sdo := s.hp.sdo }
      csu := { State.reset.csu with held := true, reason := .powerOn, source := s.csu.source }
      pending := s.pending, freeIx := s.freeIx } ∧
    (s.csu.held = false ∨ s.csu.reason ≠ .powerOn → exec .rstnAsserted s = .next { State.reset with
      hp := { State.reset.hp with select := if s.hp.select = .high then .high else .dead, sdo := s.hp.sdo }
      csu := { State.reset.csu with held := true, reason := .resetLine, source := s.csu.source }
      pending := s.pending, freeIx := s.freeIx }) ∧
    (s.csu.held = true → s.csu.reason = .powerOn → exec .rstnAsserted s = exec .powerOnReset s) ∧
    (∀ xsel, s.csu.held = true → exec (.resetRelease xsel) s = .next { s with
      csu := { s.csu with held := false, source := if xsel then .internal else .crystal, divider := 512
                          initCount := some 1024 }
      gs := { s.gs with frameTimer := s.gs.settings.period.periods } }) ∧
    (s.csu.held = false → s.hp.port = .init → exec .initialisationEnd s = .next { s with
      hp := { s.hp with port := .idle, powerOn := if s.csu.reason = .powerOn then true else s.hp.powerOn }
      au := { s.au with restarted := some { reason := s.csu.reason, seen := false } }
      csu := { s.csu with initCount := none } })

/-- R21, R41, R113, R160, R174, R182: RESTART frees every channel and field with its generation advanced, empties the maps
and queues, stops the engine, darkens both planes, ends a hold, empties the attention set with the mask kept, and waits for
the next base tick. -/
def Obligations.Restart : Prop :=
  ∀ s : State, s.takes → exec (.restart []) s = .next { s with
      ct := { slots := s.ct.slots.map fun sl => { gen := sl.gen + 1, occupant := none }
              tags := Vector.replicate 8 none
              pins := Vector.replicate 8 none }
      ms := { queue := [], mode := .run }
      ce := { conv := none, mux := none, oscillator := false }
      ft := { slots := s.ft.slots.map fun sl => { gen := sl.gen + 1, occupant := none }
              owners := Vector.replicate 132 none }
      re := { queue := [], plane := Vector.replicate 132 .off, changed := false }
      gs := { s.gs with shown := Vector.replicate 132 .off, hold := none }
      au := { channels := Vector.replicate 8 SlotPairs.empty, holdExpired := .absent, restarted := none
              mask := s.au.mask }
      csu := { s.csu with fastClock := false }
      hp := s.waitingPort .restart }

/-- R43, R81, R82, R83, R135, R139, R141, R178, R183: what one base tick leaves at its owners, expiries included, in every
state outside a reset. A running interval timer falls by one, or expires and reloads; a present age grows by one up to
65535, and a FRESH result whose age so reaches its nonzero stale limit is STALE; each blink phase falls by one, or toggles
and reloads 32 or 8; a running hold timer falls by one, or ends the hold and raises HOLD_EXPIRED; a waiting RESTART is
answered OK with RESTARTED raised. That a tick falling together with a completion taken before it ages the new result is a
choice of the model (notes/assumptions/23.md). An owner in `early` has taken this tick already, through the row of its expiry
(notes/assumptions/7.md, a choice of the model). -/
def Obligations.BaseTick : Prop :=
  ∀ s : State, s.csu.held = false → ∃ t, exec .baseTick s = .next t ∧
    (∀ i : Slot, s.channel i = none → t.channel i = none) ∧
    (∀ (i : Slot) (c : Channel), s.channel i = some c → ∃ d, t.channel i = some d ∧
      d.state = c.state ∧ d.defn = c.defn ∧ d.curve = c.curve ∧ d.limits = c.limits ∧ d.staleLimit = c.staleLimit ∧
      d.sched.oneShot = c.sched.oneShot ∧ d.sched.notice = c.sched.notice ∧ d.sched.unwaited = c.sched.unwaited ∧
      (.interval i ∉ s.csu.early → c.state = .active → s.ms.mode = .run → ∀ n, c.sched.countdown = some n →
        (n ≤ 1 → d.sched.countdown = some c.defn.interval) ∧ (1 < n → d.sched.countdown = some (n - 1))) ∧
      (.interval i ∈ s.csu.early ∨ c.state ≠ .active ∨ s.ms.mode = .paused →
        d.sched.countdown = c.sched.countdown ∧ d.sched.late = c.sched.late) ∧
      (.age i ∈ s.csu.early → d.result = c.result) ∧
      (.age i ∉ s.csu.early → ∃ f, d.result = { c.result with
          age := c.result.age.map fun a => if a < 65535 then a + 1 else 65535
          freshness := f } ∧
        (∀ a, c.result.freshness = some .fresh → c.result.age = some a → c.staleLimit ≠ 0 →
          c.staleLimit ≤ (if a < 65535 then a + 1 else 65535) → f = some .stale) ∧
        ((c.result.freshness ≠ some .fresh ∨ c.staleLimit = 0 ∨ ∀ a, c.result.age = some a →
          (if a < 65535 then a + 1 else 65535) < c.staleLimit) → f = c.result.freshness))) ∧
    (.blink .slow ∉ s.csu.early → t.gs.slow =
      if s.gs.slow.count ≤ 1 then { lit := !s.gs.slow.lit, count := 32 }
      else { lit := s.gs.slow.lit, count := s.gs.slow.count - 1 }) ∧
    (.blink .fast ∉ s.csu.early → t.gs.fast =
      if s.gs.fast.count ≤ 1 then { lit := !s.gs.fast.lit, count := 8 }
      else { lit := s.gs.fast.lit, count := s.gs.fast.count - 1 }) ∧
    (.hold ∉ s.csu.early →
      (s.gs.hold = none → t.gs.hold = none) ∧
      ∀ n, s.gs.hold = some n →
        (n ≤ 1 → t.gs.hold = none ∧ t.au.holdExpired = .unseen) ∧ (1 < n → t.gs.hold = some (n - 1))) ∧
    (.restart ∉ s.csu.early → s.hp.waiting = some .restart →
      t.hp = s.ended .ok [] ∧ t.au.restarted = some { reason := .command, seen := false }) ∧
    (s.hp.waiting ≠ some .restart → t.hp = s.hp ∧ t.au.restarted = s.au.restarted) ∧
    t.csu.divider = 512 ∧ t.csu.early = [] ∧ t.ms.mode = s.ms.mode ∧ t.ft = s.ft ∧ t.re.plane = s.re.plane ∧
    t.re.changed = s.re.changed ∧ t.gs.shown = s.gs.shown ∧ t.gs.settings = s.gs.settings ∧
    t.gs.frameTimer = s.gs.frameTimer ∧ t.gs.drive = s.gs.drive ∧ t.au.mask = s.au.mask ∧ t.pending = s.pending

/-- R43, R44, R45, R48, R82, R83, R135, R141, R178, R180, R183: what an expiry that a base tick brings about does, whole. The rows
INTERVAL_EXPIRY, STALE_LIMIT_EXPIRY, HOLD_EXPIRY, BLINK_TOGGLE and RESTART_END are the coming base tick at that one owner,
taken before the others reach it and noted in `early`, and do nothing where that tick is no expiry or was taken already;
BASE_TICK reaches the owners that have not taken it, one after another. The rows' form and the order of the owners are
choices of the model (notes/assumptions/7.md), and so is the order in which the fields of two channels are marked that
become STALE in one tick (notes/assumptions/25.md). While a reset is held neither BASE_TICK nor such a row changes anything
(R180). -/
def Obligations.TickOwners : Prop :=
  (∀ (c : Instr) (s : State), s.csu.held = true →
    c ∈ [.baseTick, .holdExpiry, .restartEnd, .blinkToggle .slow, .blinkToggle .fast] ++
        ((List.finRange 8).map Instr.intervalExpiry) ++ ((List.finRange 8).map Instr.staleLimitExpiry) →
      exec c s = .next s) ∧
  ∀ s : State, s.csu.held = false →
    (exec .baseTick s = .next
      (let t := (([.interval 0, .interval 1, .interval 2, .interval 3, .interval 4, .interval 5, .interval 6, .interval 7,
          .age 0, .age 1, .age 2, .age 3, .age 4, .age 5, .age 6, .age 7, .blink .slow, .blink .fast, .hold,
          .restart] : List TickOwner).filter fun o => !s.csu.early.contains o).foldl State.tick s
       { t with csu := { t.csu with divider := 512, early := [] } })) ∧
    (∀ (i : Slot) (c : Channel) (n : Nat), s.channel i = some c → c.state = .active → s.ms.mode = .run →
      c.sched.countdown = some n → n ≤ 1 → .interval i ∉ s.csu.early →
      ∃ t, s.tick (.interval i) = t ∧
        exec (.intervalExpiry i) s = .next { t with csu := { t.csu with early := .interval i :: t.csu.early } } ∧
        (s.queued i = false → s.converting i = false → t = ({ s with
          ct := s.tableWith i { c with sched := { c.sched with countdown := some c.defn.interval } }
          ms := s.queueOf (s.ms.queue ++ [i]) } : State).pick) ∧
        (s.queued i = true ∨ s.converting i = true → t = ({ s with
          ct := s.tableWith i { c with
            sched := { c.sched with countdown := some c.defn.interval, late := true } } } : State).pick)) ∧
    (∀ (i : Slot) (c : Channel) (a : Nat), s.channel i = some c → c.result.freshness = some .fresh →
      c.result.age = some a → a < 65535 → c.staleLimit ≠ 0 → c.staleLimit ≤ a + 1 → .age i ∉ s.csu.early →
      ∃ t, s.tick (.age i) = t ∧
        exec (.staleLimitExpiry i) s = .next { t with csu := { t.csu with early := .age i :: t.csu.early } } ∧
        t = { s with
          ct := s.tableWith i { c with result := { c.result with age := some (a + 1), freshness := some .stale } }
          au := s.pairsRaised i false false true false
          re := s.dirtied (s.fieldsOf i) }) ∧
    (s.gs.slow.count ≤ 1 → .blink .slow ∉ s.csu.early → exec (.blinkToggle .slow) s = .next { s with
      gs := { s.gs with slow := { lit := !s.gs.slow.lit, count := 32 } }
      csu := { s.csu with early := .blink .slow :: s.csu.early } }) ∧
    (s.gs.fast.count ≤ 1 → .blink .fast ∉ s.csu.early → exec (.blinkToggle .fast) s = .next { s with
      gs := { s.gs with fast := { lit := !s.gs.fast.lit, count := 8 } }
      csu := { s.csu with early := .blink .fast :: s.csu.early } }) ∧
    (∀ n, s.gs.hold = some n → n ≤ 1 → .hold ∉ s.csu.early → exec .holdExpiry s = .next { s with
      gs := { s.gs with hold := none }
      au := { s.au with holdExpired := .unseen }
      csu := { s.csu with early := .hold :: s.csu.early } }) ∧
    (s.hp.waiting = some .restart → .restart ∉ s.csu.early → exec .restartEnd s = .next { s with
      au := { s.au with restarted := some { reason := .command, seen := false } }
      hp := s.ended .ok []
      csu := { s.csu with early := .restart :: s.csu.early } }) ∧
    ∀ (c : Instr) (o : TickOwner), (c, o) ∈
        [(Instr.holdExpiry, TickOwner.hold), (.restartEnd, .restart), (.blinkToggle .slow, .blink .slow),
          (.blinkToggle .fast, .blink .fast)] ++
        ((List.finRange 8).map fun i => (Instr.intervalExpiry i, TickOwner.interval i)) ++
        ((List.finRange 8).map fun i => (Instr.staleLimitExpiry i, TickOwner.age i)) →
      (o ∈ s.csu.early ∨ s.expiresNext o = false) → exec c s = .next s

/-! ## Channels -/

/-- R1, R2, R75, R89, R95, R97, R98, R99, R105, R106, R128, R131, R167, R176: when the payloads of DEFINE_CHANNEL and
MODIFY_CHANNEL, SET_CURVE, SET_LIMITS, BIND_FIELD, EDIT_FIELD, RETARGET_FIELD, SET_FIELD_VALUE and SET_GLASS are
well-formed, and what they then say: each byte's position, code and range, and each admitted source; and the layout of a
mantissa, of the handle bytes and of the segment address byte. -/
def Obligations.PayloadFormats : Prop :=
  (∀ (p : List Byte) (k : Nat), mantissaAt p k =
    ((byteAt p k).toNat : Int) * 256 + ((byteAt p (k + 1)).toNat : Int)
      - (if 128 ≤ (byteAt p k).toNat then 65536 else 0)) ∧
  (∀ (b : Byte) (i : Slot) (g : Fin 16),
    (chanHandle b = some (i, g) ↔ b.toNat = i.val * 16 + g.val) ∧ (chanByte i g).toNat = i.val * 16 + g.val) ∧
  (∀ (b : Byte) (f : FieldIx) (g : Fin 4),
    (fieldHandle b = some (f, g) ↔ b.toNat = 128 + f.val * 4 + g.val) ∧
    (fieldByte f g).toNat = 128 + f.val * 4 + g.val) ∧
  (∀ (b : Byte) (a : SegAddr),
    (segAddr b = some a ↔ b.toNat = a.val / 33 * 64 + a.val % 33) ∧
    (addrByte a).toNat = a.val / 33 * 64 + a.val % 33 ∧
    (inGeometry .quarter a = true ↔ a.val % 33 ≤ 31) ∧ (inGeometry .third a = true ↔ a.val / 33 ≤ 2)) ∧
  (∀ (p : List Byte) (c : Nat), (breakpoints p c).length = c ∧
    ∀ j : Nat, j < c → (breakpoints p c)[j]? = some
      { x := (byteAt p (3 + 5 * j)).toNat * 65536 + (byteAt p (4 + 5 * j)).toNat * 256 + (byteAt p (5 + 5 * j)).toNat
        y := mantissaAt p (6 + 5 * j) }) ∧
  (∀ (d : ChannelDef) (pts : List Breakpoint), curveOk d pts = true ↔
    (pts.length = 0 ∨ (2 ≤ pts.length ∧ pts.length ≤ 8)) ∧
    (∀ (j : Nat) (a b : Breakpoint), pts[j]? = some a → pts[j + 1]? = some b → a.x < b.x) ∧
    ∀ a ∈ pts, a.x ≤ if d.reference = none then 16777215 else 65535) ∧
  (∀ (p : List Byte), (decodeLimits p = some none ↔ byteAt p 1 = 1#8) ∧
    ∀ l : Limits, decodeLimits p = some (some l) ↔
      byteAt p 1 = 0#8 ∧
      ((byteAt p 2 = 0#8 ∧ l.low = none) ∨ (byteAt p 2 = 1#8 ∧ l.low = some (mantissaAt p 3))) ∧
      ((byteAt p 5 = 0#8 ∧ l.high = none) ∨ (byteAt p 5 = 1#8 ∧ l.high = some (mantissaAt p 6))) ∧
      l.hysteresis = (byteAt p 8).toNat * 256 + (byteAt p 9).toNat ∧ l.hysteresis ≤ 1000) ∧
  (∀ (p : List Byte) (look : Appearance), decodeAppearance p = some look ↔
    byteAt p 1 = (if look.visible then 1#8 else 0#8) ∧
    byteAt p 2 = (match look.blinkMode with
      | .none => 0#8
      | .always => 1#8
      | .onAlarm => 2#8
      | .onDoubt => 3#8) ∧
    byteAt p 3 = (if look.blinkRate = .fast then 1#8 else 0#8)) ∧
  (∀ (x y : Byte) (src : Source), decodeSource x y = some src ↔
    (x = 0#8 ∧ src = .host) ∨ (x = 1#8 ∧ src = .detached) ∨
      ∃ i g, x = 2#8 ∧ src = .channel i g ∧ y.toNat = i.val * 16 + g.val) ∧
  (∀ (k : FieldKind) (src : Source), admits k src = true ↔
    (match k with
      | .numeric .. => True
      | .bar .. => True
      | .indicator c => if c = .hostFlag then src = .host else src ≠ .host
      | .pattern => src = .host)) ∧
  (∀ (p : List Byte) (k : FieldKind),
    (∀ width points sign dec, editKind (.numeric width points sign dec) p = some k ↔
      k = .numeric width points sign (byteAt p 4).toNat ∧
        1 ≤ width ∧ width ≤ 6 ∧ (byteAt p 4).toNat ≤ 3 ∧ (byteAt p 4).toNat < width) ∧
    (∀ lo hi, editKind (.bar lo hi) p = some k ↔
      k = .bar (mantissaAt p 5) (mantissaAt p 7) ∧ mantissaAt p 5 < mantissaAt p 7) ∧
    (∀ c0, editKind (.indicator c0) p = some k ↔ ∃ c : Condition, k = .indicator c ∧ byteAt p 9 = (match c with
      | .high => 0#8
      | .low => 1#8
      | .alarm => 2#8
      | .doubt => 3#8
      | .stale => 4#8
      | .hostFlag => 5#8)) ∧
    (editKind .pattern p = some k ↔ k = .pattern)) ∧
  (∀ (p : List Byte) (x : Option HostDatum), decodeDatum p = some x ↔
    (byteAt p 1 = 0#8 ∧ x = some (.value (mantissaAt p 2))) ∨
    (byteAt p 1 = 1#8 ∧ ((byteAt p 2 = 0#8 ∧ x = some (.flag false)) ∨ (byteAt p 2 = 1#8 ∧ x = some (.flag true)))) ∨
    (byteAt p 1 = 2#8 ∧ ∃ e, x = some (.pattern e) ∧ e.length = (byteAt p 2).toNat ∧
      ∀ j : Nat, j < e.length → e[j]? = some ((byteAt p (3 + j / 8)).getMsbD (j % 8))) ∨
    (byteAt p 1 = 3#8 ∧ x = none)) ∧
  (∀ p : List Byte, valueLengthOk p = true ↔ 2 ≤ p.length ∧ (byteAt p 1 = 0#8 → p.length = 4) ∧
    (byteAt p 1 = 1#8 → p.length = 3) ∧
    (byteAt p 1 = 2#8 → 3 ≤ p.length ∧ p.length = 3 + ((byteAt p 2).toNat + 7) / 8) ∧
    (byteAt p 1 = 3#8 → p.length = 2)) ∧
  (∀ (k : FieldKind) (x : Option HostDatum), formMatches k x = true ↔ x = none ∨
    (match k with
      | .numeric .. => ∃ v, x = some (.value v)
      | .bar .. => ∃ v, x = some (.value v)
      | .indicator _ => ∃ b, x = some (.flag b)
      | .pattern => ∃ e, x = some (.pattern e))) ∧
  (∀ (p : List Byte) (k : Nat) (q : DefReq), decodeDef p k = some q ↔
    (∃ a b c d : Byte, q.tag = { c0 := a, c1 := b, c2 := c, c3 := d } ∧
      byteAt p k = a ∧ byteAt p (k + 1) = b ∧ byteAt p (k + 2) = c ∧ byteAt p (k + 3) = d ∧
      (0x41 ≤ a.toNat ∧ a.toNat ≤ 0x5A) ∧
      (∀ x ∈ [b, c, d], (0x41 ≤ x.toNat ∧ x.toNat ≤ 0x5A) ∨ (0x30 ≤ x.toNat ∧ x.toNat ≤ 0x39) ∨ x.toNat = 0x20) ∧
      (b.toNat = 0x20 → c.toNat = 0x20) ∧ (c.toNat = 0x20 → d.toNat = 0x20)) ∧
    (byteAt p (k + 4)).toNat = q.pin.val ∧
    q.countLen = (byteAt p (k + 6)).toNat * 256 + (byteAt p (k + 7)).toNat ∧
    ((byteAt p (k + 5) = 0#8 ∧ q.method = .window ∧ 1 ≤ q.countLen ∧ q.countLen ≤ 1024) ∨
      (byteAt p (k + 5) = 1#8 ∧ q.method = .period ∧ q.countLen ∈ [1, 2, 4, 8, 16, 32, 64, 128])) ∧
    q.settle = (byteAt p (k + 8)).toNat ∧
    q.timeout = (byteAt p (k + 9)).toNat * 256 + (byteAt p (k + 10)).toNat ∧ 8 ≤ q.timeout ∧ q.timeout ≤ 1024 ∧
    q.interval = (byteAt p (k + 11)).toNat * 256 + (byteAt p (k + 12)).toNat ∧ 1 ≤ q.interval ∧ q.interval ≤ 16383 ∧
    ((byteAt p (k + 13) = 0xFF#8 ∧ q.ref = none) ∨ ∃ r, q.ref = some r ∧
      (byteAt p (k + 13)).toNat = r.slot.val * 16 + r.gen.val ∧
      r.maxAge = (byteAt p (k + 14)).toNat * 256 + (byteAt p (k + 15)).toNat ∧ 1 ≤ r.maxAge ∧ r.maxAge ≤ 16383) ∧
    ((byteAt p (k + 16) = 0#8 ∧ q.notify = false) ∨ (byteAt p (k + 16) = 1#8 ∧ q.notify = true))) ∧
  (∀ (p : List Byte) (q : BindReq), decodeBind p = some q ↔
    ((∃ width points sign dec, q.kind = .numeric width points sign dec ∧ byteAt p 0 = 0#8 ∧
        (byteAt p 6).toNat = width ∧ byteAt p 7 = (if points then 1#8 else 0#8) ∧
        byteAt p 8 = (if sign then 1#8 else 0#8) ∧ (byteAt p 9).toNat = dec ∧
        1 ≤ width ∧ width ≤ 6 ∧ dec ≤ 3 ∧ dec < width) ∨
      (∃ lo hi, q.kind = .bar lo hi ∧ byteAt p 0 = 1#8 ∧ lo = mantissaAt p 6 ∧ hi = mantissaAt p 8 ∧ lo < hi) ∨
      (∃ c : Condition, q.kind = .indicator c ∧ byteAt p 0 = 2#8 ∧ byteAt p 6 = c.byte) ∨
      (q.kind = .pattern ∧ byteAt p 0 = 3#8)) ∧
    byteAt p 1 = (if q.look.visible then 1#8 else 0#8) ∧ byteAt p 2 = q.look.blinkMode.byte ∧
    byteAt p 3 = (if q.look.blinkRate = .fast then 1#8 else 0#8) ∧
    ((byteAt p 4 = 0#8 ∧ q.source = .host) ∨ (byteAt p 4 = 1#8 ∧ q.source = .detached) ∨
      ∃ i g, byteAt p 4 = 2#8 ∧ q.source = .channel i g ∧ (byteAt p 5).toNat = i.val * 16 + g.val) ∧
    (match q.kind with
      | .numeric .. => True
      | .bar .. => True
      | .indicator c => if c = .hostFlag then q.source = .host else q.source ≠ .host
      | .pattern => q.source = .host)) ∧
  (∀ (n : Nat),
    (∀ width points sign dec, lengthAllowed (.numeric width points sign dec) n = true ↔
      n = width * (if points then 8 else 7) + (if sign then 1 else 0)) ∧
    (∀ lo hi, lengthAllowed (.bar lo hi) n = true ↔ 1 ≤ n ∧ n ≤ 16) ∧
    (∀ c, lengthAllowed (.indicator c) n = true ↔ 1 ≤ n ∧ n ≤ 8) ∧
    (lengthAllowed .pattern n = true ↔ 1 ≤ n ∧ n ≤ 32)) ∧
  ∀ (p : List Byte) (g : GlassSettings), decodeGlass p = some g ↔
    byteAt p 0 = (if g.duty = .quarter then 0#8 else 1#8) ∧ byteAt p 1 = (if g.bias = .third then 0#8 else 1#8) ∧
    byteAt p 2 = (match g.period with
      | .p1024 => 0#8
      | .p768 => 1#8
      | .p512 => 2#8
      | .p384 => 3#8) ∧
    (byteAt p 3).toNat = g.contrast.val ∧ byteAt p 4 = (if g.display then 1#8 else 0#8) ∧
    (g.bias = .half → g.duty = .third)

/-- R10: a DEFINE_CHANNEL that passes its checks fills the lowest FREE slot in state DEFINED with everything else of the
record clear, enters the tag and the pin, and answers the handle at the slot's current generation. -/
def Obligations.DefineChannel : Prop :=
  ∀ (p : List Byte) (q : DefReq) (s : State) (i : Slot), s.takes → p.length = 17 → decodeDef p 0 = some q →
    s.firstFree i → (∀ j : Slot, s.ct.tags[j] ≠ some q.tag) → s.ct.pins[q.pin] = none → s.refSound none q →
    exec (.defineChannel p) s = .next { s with
      ct := { slots := vput s.ct.slots i
                { gen := s.ct.slots[i].gen
                  occupant := some
                    { state := .defined, defn := q.toDef, curve := none, limits := none, staleLimit := 0
                      result := { outcome := .none, raw := none, ratio := none, value := none, freshness := none
                                  age := none, seq := 0, limit := .normal }
                      sched := { countdown := none, oneShot := false, notice := false, unwaited := false
                                 late := false, refTried := false } } }
              tags := vput s.ct.tags i (some q.tag)
              pins := vput s.ct.pins q.pin (some i) }
      hp := s.answered .ok [chanByte i s.ct.slots[i].gen] }

/-- R9: the checks of DEFINE_CHANNEL in their order, each refusal leaving every unit but the host port as it was. -/
def Obligations.DefineRefusals : Prop :=
  ∀ (p : List Byte) (s : State), s.takes → p.length = 17 →
    (decodeDef p 0 = none → exec (.defineChannel p) s = .next { s with hp := s.answered .badParameter [] }) ∧
    ∀ q, decodeDef p 0 = some q →
      ((∀ i : Slot, s.channel i ≠ none) →
        exec (.defineChannel p) s = .next { s with hp := s.answered .noSlot [] }) ∧
      ∀ i : Slot, s.channel i = none →
        (∀ j : Slot, s.ct.tags[j] = some q.tag →
          exec (.defineChannel p) s = .next { s with hp := s.answered .duplicateTag [] }) ∧
        ((∀ j : Slot, s.ct.tags[j] ≠ some q.tag) →
          (s.ct.pins[q.pin] ≠ none →
            exec (.defineChannel p) s = .next { s with hp := s.answered .pinTaken [] }) ∧
          (s.ct.pins[q.pin] = none → ∀ r, q.ref = some r →
            (s.accept r.slot r.gen = none →
              exec (.defineChannel p) s = .next { s with hp := s.answered .staleHandle [] }) ∧
            ∀ c, s.accept r.slot r.gen = some c →
              (c.defn.reference ≠ none ∨ c.defn.method ≠ q.method ∨ c.defn.countLen ≠ q.countLen) →
              exec (.defineChannel p) s = .next { s with hp := s.answered .mismatch [] }))

/-- R12, R13, R36, R48: a MODIFY_CHANNEL that passes its checks abandons the channel's conversion, clears its scheduling part
and its queue entry, replaces the definition with the tag and pin entries, clears the result part keeping the result
sequence, raises QUALITY and LIMIT as the old result asks, marks the fields dirty and answers OK; state, generation,
curve, limits and stale limit stay. The pick behind an abandonment comes last; that it may chain the modified channel for a
queued referrer is a choice of the model (notes/assumptions/22.md). -/
def Obligations.ModifyChannel : Prop :=
  ∀ (p : List Byte) (q : DefReq) (s : State) (i : Slot) (g : Fin 16) (c : Channel), s.takes → p.length = 18 →
    decodeDef p 1 = some q → chanHandle (byteAt p 0) = some (i, g) → s.accept i g = some c → c.state ≠ .active →
    (∀ j : Slot, s.ct.tags[j] = some q.tag → j = i) → (∀ j, s.ct.pins[q.pin] = some j → j = i) →
    s.refSound (some i) q →
    (s.noReferrer i ∨ (q.method = c.defn.method ∧ q.countLen = c.defn.countLen ∧ q.ref = none)) →
    (c.curve = none ∨ q.ref.isSome = c.defn.reference.isSome) →
    exec (.modifyChannel p) s = .next ({ s with
      ct := { slots := vput s.ct.slots i
                { gen := g
                  occupant := some { c with
                    defn := q.toDef
                    result := { outcome := .none, raw := none, ratio := none, value := none, freshness := none
                                age := none, seq := c.result.seq, limit := .normal }
                    sched := { countdown := none, oneShot := false, notice := false, unwaited := false
                               late := false, refTried := false } } }
              tags := vput s.ct.tags i (some q.tag)
              pins := vput (vput s.ct.pins c.defn.pin none) q.pin (some i) }
      ms := s.queueOf (s.ms.queue.erase i)
      ce := s.engineWithout i
      csu := s.clocksWithout i
      au := s.pairsRaised i false (c.result.limit ≠ .normal) (c.result.outcome ≠ .none) false
      re := s.dirtied (s.fieldsOf i)
      hp := s.answered .ok [] } : State).pick

/-- R11: the checks of MODIFY_CHANNEL after the definition's form and the target handle, in their order, each refusal leaving
every unit but the host port as it was. -/
def Obligations.ModifyRefusals : Prop :=
  ∀ (p : List Byte) (s : State), s.takes → p.length = 18 →
    (decodeDef p 1 = none → exec (.modifyChannel p) s = .next { s with hp := s.answered .badParameter [] }) ∧
    ∀ q, decodeDef p 1 = some q →
      ((byteAt p 0).msb = true → exec (.modifyChannel p) s = .next { s with hp := s.answered .badParameter [] }) ∧
      ∀ i g, chanHandle (byteAt p 0) = some (i, g) →
        (s.accept i g = none → exec (.modifyChannel p) s = .next { s with hp := s.answered .staleHandle [] }) ∧
        ∀ c, s.accept i g = some c →
          (c.state = .active → exec (.modifyChannel p) s = .next { s with hp := s.answered .wrongState [] }) ∧
          (c.state ≠ .active →
            (∀ j : Slot, s.ct.tags[j] = some q.tag → j ≠ i → (∀ k : Slot, s.ct.tags[k] = some q.tag → k = j) →
              exec (.modifyChannel p) s = .next { s with hp := s.answered .duplicateTag [] }) ∧
            ((∀ j : Slot, s.ct.tags[j] = some q.tag → j = i) →
              (∀ j, s.ct.pins[q.pin] = some j → j ≠ i →
                exec (.modifyChannel p) s = .next { s with hp := s.answered .pinTaken [] }) ∧
              ((∀ j, s.ct.pins[q.pin] = some j → j = i) →
                (∀ r, q.ref = some r → s.accept r.slot r.gen = none →
                  exec (.modifyChannel p) s = .next { s with hp := s.answered .staleHandle [] }) ∧
                (∀ r d, q.ref = some r → s.accept r.slot r.gen = some d →
                  (r.slot = i ∨ d.defn.reference ≠ none ∨ d.defn.method ≠ q.method ∨ d.defn.countLen ≠ q.countLen) →
                  exec (.modifyChannel p) s = .next { s with hp := s.answered .mismatch [] }) ∧
                (s.refSound (some i) q →
                  ((∃ (j : Slot) (d : Channel) (l : RefLink), s.channel j = some d ∧ d.defn.reference = some l ∧
                      l.slot = i) →
                    (q.method ≠ c.defn.method ∨ q.countLen ≠ c.defn.countLen ∨ q.ref ≠ none) →
                    exec (.modifyChannel p) s = .next { s with hp := s.answered .mismatch [] }) ∧
                  (s.noReferrer i ∨ (q.method = c.defn.method ∧ q.countLen = c.defn.countLen ∧ q.ref = none) →
                    c.curve ≠ none → q.ref.isSome ≠ c.defn.reference.isSome →
                    exec (.modifyChannel p) s = .next { s with hp := s.answered .mismatch [] })))))

/-- R15, R16, R36, R48, R108: RETIRE_CHANNEL of a channel with a referrer is refused IN_USE; of any other, it abandons the
conversion, withdraws the entry, removes the channel's attention pairs, detaches and marks dirty the fields naming the
slot, removes tag and pin, and frees the slot with its generation advanced; the pick
behind an abandonment comes last. -/
def Obligations.RetireChannel : Prop :=
  ∀ (b : Byte) (s : State) (i : Slot) (g : Fin 16) (c : Channel), s.takes → chanHandle b = some (i, g) →
    s.accept i g = some c →
    (∀ (j : Slot) (d : Channel) (l : RefLink), s.channel j = some d → d.defn.reference = some l → l.slot = i →
      exec (.retireChannel [b]) s = .next { s with hp := s.answered .inUse [] }) ∧
    (s.noReferrer i → exec (.retireChannel [b]) s = .next ({ s with
      ct := { slots := vput s.ct.slots i { gen := g + 1, occupant := none }
              tags := vput s.ct.tags i none
              pins := vput s.ct.pins c.defn.pin none }
      ms := s.queueOf (s.ms.queue.erase i)
      ce := s.engineWithout i
      csu := s.clocksWithout i
      ft := { s.ft with slots := s.ft.slots.map fun sl => { sl with
        occupant := sl.occupant.map fun d =>
          if ∃ h, d.source = .channel i h then { d with source := .detached } else d } }
      re := s.dirtied ((List.finRange 24).filter fun f =>
        (s.field f).any fun d => decide (∃ h, d.source = .channel i h))
      au := { s.au with channels := vput s.au.channels i SlotPairs.empty }
      hp := s.answered .ok [] } : State).pick)

/-- R18, R110, R111, R146: READ_CHANNEL, READ_FIELD, READ_OWNER and READ_PLANE answer OK with their reports and change nothing
but the host port, so a read that is repeated reports the same. The reports are the ones of ChannelReport, FieldReport and
PlaneAndAttentionReports; their open bits are free values (notes/assumptions/2.md). -/
def Obligations.ReadRequests : Prop :=
  ∀ s : State, s.takes →
    (∀ b i g c, chanHandle b = some (i, g) → s.accept i g = some c → exec (.readChannel [b]) s = .next { s with
      hp := s.answered .ok (s.channelReport i c) }) ∧
    (∀ b f g d, fieldHandle b = some (f, g) → s.acceptField f g = some d → exec (.readField [b]) s = .next { s with
      hp := s.answered .ok (fieldReport (fieldByte f g) d) }) ∧
    (∀ b a, segAddr b = some a → inGeometry s.gs.settings.duty a = true → exec (.readOwner [b]) s = .next { s with
      hp := s.answered .ok [match s.ft.owners[a] with
        | none => 0xFF#8
        | some f => fieldByte f s.ft.slots[f].gen] }) ∧
    (∀ b, (∀ a, segAddr b = some a → inGeometry s.gs.settings.duty a = false) →
      exec (.readOwner [b]) s = .next { s with hp := s.answered .segmentRange [] }) ∧
    exec (.readPlane [0#8]) s = .next { s with
      hp := s.answered .ok (s.gs.settings.duty.byte :: planeBytes s.gs.settings.duty s.gs.shown) } ∧
    exec (.readPlane [1#8]) s = .next { s with
      hp := s.answered .ok (s.gs.settings.duty.byte :: planeBytes s.gs.settings.duty s.re.plane) } ∧
    ∀ b, 1 < b.toNat → exec (.readPlane [b]) s = .next { s with hp := s.answered .badParameter [] }

/-- R18, R176: the result part and the channel report byte by byte. The 43 bytes are the ones listed, but for bit 6 of the
curve byte and bits 7..3 of the limits and schedule bytes, to which the manual gives no value (notes/assumptions/2.md).
That the positions of absent limits, of an absent ref max age and of an absent curve are sent as 0 is the model's reading
(notes/assumptions/4.md). -/
def Obligations.ChannelReport : Prop :=
  (∀ r : Result, resultPart r =
    [(match r.outcome with
        | .none => 0#8
        | .good => 1#8
        | .under => 2#8
        | .over => 3#8
        | .overflow => 4#8
        | .noSignal => 5#8
        | .noReference => 6#8),
      BitVec.ofNat 8 ((if r.raw.isSome then 1 else 0) + (if r.ratio.isSome then 2 else 0)
        + (if r.value.isSome then 4 else 0) + (if r.age.isSome then 8 else 0)
        + (if r.freshness = some .stale then 16 else 0)
        + (match r.limit with
            | .normal => 0
            | .low => 32
            | .high => 64)),
      BitVec.ofNat 8 (r.raw.getD 0 / 65536), BitVec.ofNat 8 (r.raw.getD 0 / 256), BitVec.ofNat 8 (r.raw.getD 0),
      BitVec.ofNat 8 (r.ratio.getD 0 / 256), BitVec.ofNat 8 (r.ratio.getD 0),
      BitVec.ofInt 8 (r.value.getD 0 / 256), BitVec.ofInt 8 (r.value.getD 0),
      BitVec.ofNat 8 (r.age.getD 0 / 256), BitVec.ofNat 8 (r.age.getD 0),
      BitVec.ofNat 8 (r.seq / 256), BitVec.ofNat 8 r.seq]) ∧
  ∀ (s : State) (i : Slot) (c : Channel), sameBut
    (List.replicate 19 0#8 ++ [0x40#8, 0xF8#8] ++ List.replicate 21 0#8 ++ [0xF8#8])
    ([BitVec.ofNat 8 (i.val * 16 + s.ct.slots[i].gen.val),
      (match c.state with
        | .defined => 1#8
        | .active => 2#8
        | .suspended => 3#8),
      c.defn.tag.c0, c.defn.tag.c1, c.defn.tag.c2, c.defn.tag.c3, BitVec.ofNat 8 c.defn.pin.val,
      (if c.defn.method = .window then 0#8 else 1#8),
      BitVec.ofNat 8 (c.defn.countLen / 256), BitVec.ofNat 8 c.defn.countLen, BitVec.ofNat 8 c.defn.settle,
      BitVec.ofNat 8 (c.defn.timeout / 256), BitVec.ofNat 8 c.defn.timeout,
      BitVec.ofNat 8 (c.defn.interval / 256), BitVec.ofNat 8 c.defn.interval,
      (match c.defn.reference with
        | none => 0xFF#8
        | some l => BitVec.ofNat 8 (l.slot.val * 16 + s.ct.slots[l.slot].gen.val)),
      BitVec.ofNat 8 ((c.defn.reference.map RefLink.maxAge).getD 0 / 256),
      BitVec.ofNat 8 ((c.defn.reference.map RefLink.maxAge).getD 0),
      (if c.defn.notify then 1#8 else 0#8),
      (match c.curve with
        | none => 0#8
        | some k => BitVec.ofNat 8 (128 + k.decimals * 16 + k.points.length)),
      (match c.limits with
        | none => 0#8
        | some l => BitVec.ofNat 8 (1 + (if l.low.isSome then 2 else 0) + (if l.high.isSome then 4 else 0))),
      BitVec.ofInt 8 ((c.limits.bind Limits.low).getD 0 / 256), BitVec.ofInt 8 ((c.limits.bind Limits.low).getD 0),
      BitVec.ofInt 8 ((c.limits.bind Limits.high).getD 0 / 256), BitVec.ofInt 8 ((c.limits.bind Limits.high).getD 0),
      BitVec.ofNat 8 ((c.limits.map Limits.hysteresis).getD 0 / 256),
      BitVec.ofNat 8 ((c.limits.map Limits.hysteresis).getD 0),
      BitVec.ofNat 8 (c.staleLimit / 256), BitVec.ofNat 8 c.staleLimit] ++ resultPart c.result ++
      [BitVec.ofNat 8 ((if i ∈ s.ms.queue then 1 else 0) + (if c.sched.oneShot then 2 else 0)
        + (if c.sched.late then 4 else 0))])
    (s.channelReport i c)

/-- R110, R176: the field report byte by byte: handle, kind, appearance, source, kind parameters, host data, count and
addresses. Positions that belong to another kind or form are free values (notes/assumptions/2.md); FFh as the handle of a
source that is no channel, and 0 at the positions of absent host data, are the model's reading (notes/assumptions/4.md). -/
def Obligations.FieldReport : Prop :=
  ∀ (h : Byte) (d : Field), sameBut
    (List.replicate 7 0#8 ++
      (match d.kind with
        | .numeric .. => [0#8, 0#8, 0#8, 0#8]
        | .bar .. => [0#8, 0#8, 0#8, 0#8]
        | .indicator _ => [0#8, 0xFF#8, 0xFF#8, 0xFF#8]
        | .pattern => [0xFF#8, 0xFF#8, 0xFF#8, 0xFF#8]) ++
      (match d.hostData with
        | some (.value _) => [0#8, 0#8, 0#8, 0xFF#8, 0xFF#8]
        | some (.flag _) => [0#8, 0#8, 0xFF#8, 0xFF#8, 0xFF#8]
        | some (.pattern _) => [0#8, 0#8, 0#8, 0#8, 0#8]
        | none => [0#8, 0#8, 0#8, 0#8, 0#8]))
    ([h,
      (match d.kind with
        | .numeric .. => 0#8
        | .bar .. => 1#8
        | .indicator _ => 2#8
        | .pattern => 3#8),
      (if d.visible then 1#8 else 0#8),
      (match d.blinkMode with
        | .none => 0#8
        | .always => 1#8
        | .onAlarm => 2#8
        | .onDoubt => 3#8),
      (if d.blinkRate = .fast then 1#8 else 0#8)] ++
      (match d.source with
        | .host => [0#8, 0xFF#8]
        | .detached => [1#8, 0xFF#8]
        | .channel i g => [2#8, BitVec.ofNat 8 (i.val * 16 + g.val)]) ++
      (match d.kind with
        | .numeric width points sign dec =>
          [BitVec.ofNat 8 width, (if points then 1#8 else 0#8), (if sign then 1#8 else 0#8), BitVec.ofNat 8 dec]
        | .bar lo hi => [BitVec.ofInt 8 (lo / 256), BitVec.ofInt 8 lo, BitVec.ofInt 8 (hi / 256), BitVec.ofInt 8 hi]
        | .indicator .high => [0#8, 0#8, 0#8, 0#8]
        | .indicator .low => [1#8, 0#8, 0#8, 0#8]
        | .indicator .alarm => [2#8, 0#8, 0#8, 0#8]
        | .indicator .doubt => [3#8, 0#8, 0#8, 0#8]
        | .indicator .stale => [4#8, 0#8, 0#8, 0#8]
        | .indicator .hostFlag => [5#8, 0#8, 0#8, 0#8]
        | .pattern => [0#8, 0#8, 0#8, 0#8]) ++
      (match d.hostData with
        | some (.value m) => [0#8, BitVec.ofInt 8 (m / 256), BitVec.ofInt 8 m, 0#8, 0#8]
        | some (.flag b) => [1#8, if b then 1#8 else 0#8, 0#8, 0#8, 0#8]
        | some (.pattern e) => 2#8 :: (List.range 4).map fun k => BitVec.ofNat 8
            ((if e.getD (8 * k) false then 128 else 0) + (if e.getD (8 * k + 1) false then 64 else 0)
              + (if e.getD (8 * k + 2) false then 32 else 0) + (if e.getD (8 * k + 3) false then 16 else 0)
              + (if e.getD (8 * k + 4) false then 8 else 0) + (if e.getD (8 * k + 5) false then 4 else 0)
              + (if e.getD (8 * k + 6) false then 2 else 0) + (if e.getD (8 * k + 7) false then 1 else 0))
        | none => [3#8, 0#8, 0#8, 0#8, 0#8]) ++
      BitVec.ofNat 8 d.segs.length :: d.segs.map fun a => BitVec.ofNat 8 (a.val / 33 * 64 + a.val % 33))
    (fieldReport h d)

/-- R146, R152, R176: the states of READ_PLANE, four to a byte in address order, 32 bytes at duty 1/4 and 25 at duty 1/3; and
the attention report, whose bits 7..6 of the last two bytes have no value in the manual (notes/assumptions/2.md). -/
def Obligations.PlaneAndAttentionReports : Prop :=
  (∀ pl : Plane,
    (planeBytes .quarter pl).length = 32 ∧ (planeBytes .third pl).length = 25 ∧
    (∀ (common : Fin 4) (line : Fin 32) (a : SegAddr), a.val = common.val * 33 + line.val →
      (byteAt (planeBytes .quarter pl) ((common.val * 32 + line.val) / 4)).toNat
        / 4 ^ (3 - (common.val * 32 + line.val) % 4) % 4 =
        (match pl[a] with
          | .off => 0
          | .on => 1
          | .blinkSlow => 2
          | .blinkFast => 3)) ∧
    (∀ (a : SegAddr), a.val < 99 → (byteAt (planeBytes .third pl) (a.val / 4)).toNat / 4 ^ (3 - a.val % 4) % 4 =
        (match pl[a] with
          | .off => 0
          | .on => 1
          | .blinkSlow => 2
          | .blinkFast => 3)) ∧
    (byteAt (planeBytes .third pl) 24).toNat % 4 = 0) ∧
  ∀ (au : Attention) (slots : Vector ChannelSlot 8) (ix : Nat),
    (attentionReport au slots ix).length = 18 ∧
    (∀ (i : Slot) (k : Cause),
      (byteAt (attentionReport au slots ix) i.val).getLsbD k.bit = decide ((au.channels[i]).get k ≠ .absent) ∧
      (byteAt (attentionReport au slots ix) i.val).getLsbD (4 + k.bit) = decide ((au.channels[i]).get k = .unseen)) ∧
    (∀ i : Slot,
      (∀ k : Cause, (au.channels[i]).get k ≠ .absent →
        byteAt (attentionReport au slots ix) (8 + i.val) = BitVec.ofNat 8 (i.val * 16 + slots[i].gen.val)) ∧
      ((∀ k : Cause, (au.channels[i]).get k = .absent) →
        byteAt (attentionReport au slots ix) (8 + i.val) = 0xFF#8)) ∧
    (byteAt (attentionReport au slots ix) 16).toNat % 64 =
      (if au.holdExpired = .absent then 0 else 1) + (if au.holdExpired = .unseen then 2 else 0)
        + (match au.restarted with
            | none => 0
            | some r => 4 + (if r.seen then 0 else 8) + (match r.reason with
              | .powerOn => 16
              | .resetLine => 32
              | .command => 48)) ∧
    ∀ k : Fin 6, (byteAt (attentionReport au slots ix) 17).getLsbD k.val = au.mask.getLsbD k.val

/-- R19: FIND_CHANNEL refuses a malformed tag, answers the handle of the slot whose map entry has the tag, at the slot's
current generation, and answers NOT_FOUND when no entry matches. -/
def Obligations.FindChannel : Prop :=
  ∀ (a b c d : Byte) (s : State), s.takes →
    (({ c0 := a, c1 := b, c2 := c, c3 := d } : Tag).wellFormed = false →
      exec (.findChannel [a, b, c, d]) s = .next { s with hp := s.answered .badParameter [] }) ∧
    (({ c0 := a, c1 := b, c2 := c, c3 := d } : Tag).wellFormed = true →
      (∀ i : Slot, s.ct.tags[i] = some { c0 := a, c1 := b, c2 := c, c3 := d } →
        (∀ j : Slot, s.ct.tags[j] = some { c0 := a, c1 := b, c2 := c, c3 := d } → j = i) →
        exec (.findChannel [a, b, c, d]) s = .next { s with hp := s.answered .ok [chanByte i s.ct.slots[i].gen] }) ∧
      ((∀ i : Slot, s.ct.tags[i] ≠ some { c0 := a, c1 := b, c2 := c, c3 := d }) →
        exec (.findChannel [a, b, c, d]) s = .next { s with hp := s.answered .notFound [] }))

/-- R2, R57, R75, R84, R89, R95, R105, R106, R128: the first check of a request that names a channel or a field. Payload bytes
that are not well-formed are refused BAD_PARAMETER whatever the target byte is; a target byte of the other handle kind, or
a slot code 24..31, is refused BAD_PARAMETER; one whose handle is not accepted is refused STALE_HANDLE; and EDIT_FIELD's
parameters are judged for the kind of the field. None changes anything but the host port. -/
def Obligations.TargetRefusals : Prop :=
  ∀ (c : Instr) (s : State), s.takes →
    (∀ b, channelTarget c = some b →
      (b.msb = true → exec c s = .next { s with hp := s.answered .badParameter [] }) ∧
      ∀ i g, chanHandle b = some (i, g) → s.accept i g = none →
        exec c s = .next { s with hp := s.answered .staleHandle [] }) ∧
    (∀ b, fieldTarget c = some b →
      (b.msb = false ∨ 24 ≤ b.toNat / 4 % 32 → exec c s = .next { s with hp := s.answered .badParameter [] }) ∧
      ∀ f g, fieldHandle b = some (f, g) → s.acceptField f g = none →
        exec c s = .next { s with hp := s.answered .staleHandle [] }) ∧
    (lengthMatches c = true →
      ((∃ p, c = .modifyChannel p ∧ decodeDef p 1 = none) ∨
        (∃ p, c = .measureNow p ∧ 1 < (byteAt p 1).toNat) ∨
        (∃ p, c = .setCurve p ∧ byteAt p 2 ≠ 0#8 ∧ 3 < (byteAt p 1).toNat) ∨
        (∃ p, c = .setLimits p ∧ (1 < (byteAt p 1).toNat ∨
          (byteAt p 1 = 0#8 ∧ (1 < (byteAt p 2).toNat ∨ 1 < (byteAt p 5).toNat ∨
            1000 < (byteAt p 8).toNat * 256 + (byteAt p 9).toNat)))) ∨
        (∃ p, c = .setStaleLimit p ∧ 16383 < (byteAt p 1).toNat * 256 + (byteAt p 2).toNat) ∨
        (∃ p, c = .editField p ∧
          (1 < (byteAt p 1).toNat ∨ 3 < (byteAt p 2).toNat ∨ 1 < (byteAt p 3).toNat)) ∨
        (∃ p, c = .retargetField p ∧
          (2 < (byteAt p 1).toNat ∨ (byteAt p 1 = 2#8 ∧ (byteAt p 2).msb = true))) ∨
        (∃ p, c = .setFieldValue p ∧
          (3 < (byteAt p 1).toNat ∨ (byteAt p 1 = 1#8 ∧ 1 < (byteAt p 2).toNat)))) →
      exec c s = .next { s with hp := s.answered .badParameter [] }) ∧
    ∀ (p : List Byte) (f : FieldIx) (g : Fin 4) (d : Field), p.length = 10 →
      fieldHandle (byteAt p 0) = some (f, g) → s.acceptField f g = some d →
      ((∃ width points sign dec, d.kind = .numeric width points sign dec ∧
          (3 < (byteAt p 4).toNat ∨ width ≤ (byteAt p 4).toNat)) ∨
        (∃ lo hi, d.kind = .bar lo hi ∧ mantissaAt p 7 ≤ mantissaAt p 5) ∨
        (∃ k, d.kind = .indicator k ∧ 5 < (byteAt p 9).toNat)) →
      exec (.editField p) s = .next { s with hp := s.answered .badParameter [] }

/-! ## Scheduling -/

/-- R36, R48, R54, R55, R61: START_CHANNEL makes a DEFINED or SUSPENDED channel ACTIVE with its countdown at the interval and,
neither queued nor converting, at the tail of the due queue, and refuses an ACTIVE one; SUSPEND_CHANNEL abandons an ACTIVE
channel's conversion, withdraws its entry and leaves it SUSPENDED with a clear scheduling part and an untouched result, and
refuses another; PAUSE_SCHEDULE and RESUME_SCHEDULE set the schedule mode, every countdown and queue entry kept. Each but
PAUSE_SCHEDULE ends with the pick that may follow it. -/
def Obligations.ScheduleRequests : Prop :=
  ∀ s : State, s.takes →
    exec (.pauseSchedule []) s = .next { s with ms := { s.ms with mode := .paused }, hp := s.answered .ok [] } ∧
    exec (.resumeSchedule []) s =
      .next ({ s with ms := { s.ms with mode := .run }, hp := s.answered .ok [] } : State).pick ∧
    ∀ (b : Byte) (i : Slot) (g : Fin 16) (c : Channel), chanHandle b = some (i, g) → s.accept i g = some c →
      (c.state = .active → exec (.startChannel [b]) s = .next { s with hp := s.answered .wrongState [] }) ∧
      (c.state ≠ .active → exec (.startChannel [b]) s = .next ({ s with
        ct := s.tableWith i { c with
          state := .active
          sched := { c.sched with countdown := some c.defn.interval } }
        ms := s.queueOf (if i ∈ s.ms.queue ∨ s.converting i = true then s.ms.queue else s.ms.queue ++ [i])
        hp := s.answered .ok [] } : State).pick) ∧
      (c.state ≠ .active → exec (.suspendChannel [b]) s = .next { s with hp := s.answered .wrongState [] }) ∧
      (c.state = .active → exec (.suspendChannel [b]) s = .next ({ s with
        ct := s.tableWith i { c with
          state := .suspended
          sched := { countdown := none, oneShot := false, notice := false, unwaited := false, late := false
                     refTried := false } }
        ms := s.queueOf (s.ms.queue.erase i)
        ce := s.engineWithout i
        csu := s.clocksWithout i
        hp := s.answered .ok [] } : State).pick)

/-- R42, R48, R57, R58: MEASURE_NOW sets the one-shot with its notice and puts the channel at the head of the due queue, or
attaches to its conversion in flight, and ends with the pick that may follow it; without wait it sets the unwaited mark
and answers OK, and with wait the port stays BUSY. A wait option that is neither code is refused. -/
def Obligations.MeasureNow : Prop :=
  ∀ (b w : Byte) (s : State) (i : Slot) (g : Fin 16) (c : Channel), s.takes → chanHandle b = some (i, g) →
    s.accept i g = some c →
    (1 < w.toNat → exec (.measureNow [b, w]) s = .next { s with hp := s.answered .badParameter [] }) ∧
    (w = 0#8 → exec (.measureNow [b, w]) s = .next ({ s with
      ct := s.tableWith i { c with sched := { c.sched with oneShot := true, notice := true, unwaited := true } }
      ms := s.queueOf (if s.converting i = true then s.ms.queue else i :: s.ms.queue.erase i)
      hp := s.answered .ok [] } : State).pick) ∧
    (w = 1#8 → exec (.measureNow [b, w]) s = .next ({ s with
      ct := s.tableWith i { c with sched := { c.sched with oneShot := true, notice := true } }
      ms := s.queueOf (if s.converting i = true then s.ms.queue else i :: s.ms.queue.erase i)
      hp := s.waitingPort (.measureNow i) } : State).pick)

/-- R22, R24, R28, R30, R48, R49, R50, R51, R179: what a pick does. With the engine IDLE it considers the first eligible entry
of the due queue: any entry in RUN, one with its one-shot pending in PAUSED. It starts that channel when it has no
reference, a usable one (GOOD, UNDER or OVER, a raw count not 0, an age within the ref max age) or a SUSPENDED one, or when
its ref-tried mark is set: the entry leaves the queue, the mark is cleared and the engine takes the start. Otherwise it
sets the mark, puts the entry at the head, withdraws the reference's own entry and starts the reference. Without an IDLE
engine and an eligible entry there is nothing to pick (notes/assumptions/6.md). -/
def Obligations.Picks : Prop :=
  ∀ s : State, exec .pick s = .next s.pick ∧
    (s.ce.conv ≠ none ∨ (∀ i ∈ s.ms.queue, ¬s.mayStart i) → s.pick = s) ∧
    ∀ (h : Slot) (c : Channel), s.ce.conv = none → s.firstEligible h → s.channel h = some c →
      ((∀ l ∈ c.defn.reference, ∃ r ∈ s.channel l.slot,
          ((∃ d, r.result.usableWith l.maxAge d) ∨ c.sched.refTried = true ∨ r.state = .suspended)) →
        s.pick = { s with
          ct := s.tableWith h { c with sched := { c.sched with refTried := false } }
          ms := s.queueOf (s.ms.queue.erase h)
          ce := startedEngine h c.defn
          csu := { s.csu with fastClock := decide (c.defn.method = .period) } }) ∧
      ∀ l r, c.defn.reference = some l → s.channel l.slot = some r → l.slot ≠ h →
        (∀ d, ¬r.result.usableWith l.maxAge d) → c.sched.refTried = false → r.state ≠ .suspended →
        s.pick = { s with
          ct := { s.ct with
            slots := vput (vput s.ct.slots h
                { gen := s.ct.slots[h].gen
                  occupant := some { c with sched := { c.sched with refTried := true } } })
              l.slot
              { gen := s.ct.slots[l.slot].gen
                occupant := some { r with sched := { r.sched with refTried := false } } } }
          ms := s.queueOf ((h :: s.ms.queue.erase h).erase l.slot)
          ce := startedEngine l.slot r.defn
          csu := { s.csu with fastClock := decide (r.defn.method = .period) } }

/-! ## The conversion engine -/

/-- R25, R27, R28, R29, R30, R31, R37: what a sensor edge and a fast-clock period do to a conversion that goes on: every edge
restarts the edge timer; a settling edge lowers the rest and the last one enters COUNTING, with the gate timer for
WINDOW; an edge is counted in WINDOW COUNTING, opens the span in PERIOD COUNTING, and after that lowers the periods
remaining; a fast-clock period is counted while the span is open, and in SETTLING, before the opening edge and in a WINDOW
conversion it is not. Every such event, and every expiry of an engine timer, that finds the engine IDLE has no effect. -/
def Obligations.EdgesAndPeriods : Prop :=
  ∀ s : State,
    (s.ce.conv = none → ∀ c ∈ [Instr.sensorEdge, .fastClockPeriod, .gateExpiry, .edgeTimerExpiry, .counterOverflow],
      exec c s = .next s) ∧
    ∀ v : Conversion, s.ce.conv = some v →
    (v.phase = .settling → 2 ≤ v.settleRemaining → exec .sensorEdge s = .next { s with
      ce := { s.ce with conv := some { v with
        edgeTimer := v.timeout * 32, settleRemaining := v.settleRemaining - 1 } } }) ∧
    (v.phase = .settling → v.settleRemaining = 1 → exec .sensorEdge s = .next { s with
      ce := { s.ce with conv := some { v with
        phase := .counting, edgeTimer := v.timeout * 32, settleRemaining := 0
        gateTimer := if v.method = .window then some (v.countLen * 32) else none } } }) ∧
    (v.phase = .counting → v.method = .window → v.count < 16777215 → exec .sensorEdge s = .next { s with
      ce := { s.ce with conv := some { v with edgeTimer := v.timeout * 32, count := v.count + 1 } } }) ∧
    (v.phase = .counting → v.method = .period → v.opened = false → exec .sensorEdge s = .next { s with
      ce := { s.ce with conv := some { v with edgeTimer := v.timeout * 32, opened := true } } }) ∧
    (v.phase = .counting → v.method = .period → v.opened = true → 2 ≤ v.periodsRemaining →
      exec .sensorEdge s = .next { s with
        ce := { s.ce with conv := some { v with
          edgeTimer := v.timeout * 32, periodsRemaining := v.periodsRemaining - 1 } } }) ∧
    (v.phase = .counting → v.method = .period → v.opened = true → v.count < 16777215 →
      exec .fastClockPeriod s = .next { s with
        ce := { s.ce with conv := some { v with count := v.count + 1 } } }) ∧
    (v.phase = .settling ∨ v.method = .window ∨ v.opened = false → exec .fastClockPeriod s = .next s)

/-- R26, R29, R31, R32, R33, R53, R64, R73, R74, R179: the four completing events, each with its ending, and all that the one
completion comprises: the engine stopped, the record with its one-shot and late marks cleared, the raises, the dirty
marks, the answer of a waiting MEASURE_NOW, and last, in the same event, the next pick, whose PERIOD start leaves the fast
clock running. That this pick may chain the channel that has just completed once more is a choice of the model
(notes/assumptions/24.md). -/
def Obligations.Completions : Prop :=
  ∀ (s : State) (v : Conversion) (c : Channel), s.ce.conv = some v → s.channel v.channel = some c →
    (v.phase = .counting → v.method = .window → exec .gateExpiry s =
      .next (s.completedWith v.channel c (c.completed (s.refResult c) (.count v.count))).pick) ∧
    (v.phase = .counting → v.method = .period → v.opened = true → v.periodsRemaining = 1 → exec .sensorEdge s =
      .next (s.completedWith v.channel c (c.completed (s.refResult c) (.count v.count))).pick) ∧
    (exec .edgeTimerExpiry s =
      .next (s.completedWith v.channel c (c.completed (s.refResult c) .noSignal)).pick) ∧
    (v.phase = .counting → (v.method = .window ∨ v.opened = true) → v.count = 16777215 → exec .counterOverflow s =
      .next (s.completedWith v.channel c (c.completed (s.refResult c) .overflow)).pick) ∧
    (v.phase = .counting → v.method = .window → v.count = 16777215 → exec .sensorEdge s =
      .next (s.completedWith v.channel c (c.completed (s.refResult c) .overflow)).pick) ∧
    (v.phase = .counting → v.method = .period → v.opened = true → v.count = 16777215 → exec .fastClockPeriod s =
      .next (s.completedWith v.channel c (c.completed (s.refResult c) .overflow)).pick)

/-! ## Results -/

/-- R50, R63, R64, R65, R68, R69, R72, R81, R82, R87: the result part a completion leaves. The result sequence advances by one
through 65535 to 0, the age is 0 and the result FRESH. NO_SIGNAL and an engine OVERFLOW leave raw count, ratio and value
absent and the limit state held. A count is the raw count and, without a reference, the curve's input; with a usable
reference the ratio is the nearest whole number to raw × 4096 ÷ the reference's raw count, ties upward, an OVERFLOW above
65535; without a usable one the outcome is NO_REFERENCE. -/
def Obligations.CompletedResult : Prop :=
  ∀ (c : Channel) (ref : Option Result) (e : Ending),
    (c.completed ref e).seq = (c.result.seq + 1) % 65536 ∧ (c.completed ref e).age = some 0 ∧
    (c.completed ref e).freshness = some .fresh ∧
    ((c.completed ref e).value = none → (c.completed ref e).limit = c.result.limit) ∧
    ((c.completed ref e).value ≠ none → (c.completed ref e).limit =
      (({ c.result with value := (c.completed ref e).value } : Result).evaluate c.limits).limit) ∧
    (e = .noSignal → (c.completed ref e).outcome = .noSignal ∧ (c.completed ref e).raw = none ∧
      (c.completed ref e).ratio = none ∧ (c.completed ref e).value = none) ∧
    (e = .overflow → (c.completed ref e).outcome = .overflow ∧ (c.completed ref e).raw = none ∧
      (c.completed ref e).ratio = none ∧ (c.completed ref e).value = none) ∧
    ∀ n, e = .count n →
      (c.completed ref e).raw = some n ∧
      (c.defn.reference = none → (c.completed ref e).ratio = none ∧
        (c.curve = none → (c.completed ref e).outcome = .good ∧ (c.completed ref e).value = none) ∧
        ∀ k, c.curve = some k → (c.completed ref e).outcome = (k.apply n).1 ∧
          (c.completed ref e).value = some (k.apply n).2) ∧
      ∀ l, c.defn.reference = some l →
        ((∀ r d, ref = some r → ¬r.usableWith l.maxAge d) → (c.completed ref e).outcome = .noReference ∧
          (c.completed ref e).ratio = none ∧ (c.completed ref e).value = none) ∧
        ∀ r d, ref = some r → r.usableWith l.maxAge d → ∃ q : Nat,
          2 * d * q ≤ 2 * (n * 4096) + d ∧ 2 * (n * 4096) + d < 2 * d * (q + 1) ∧
          (65535 < q → (c.completed ref e).outcome = .overflow ∧ (c.completed ref e).ratio = none ∧
            (c.completed ref e).value = none) ∧
          (q ≤ 65535 → (c.completed ref e).ratio = some q ∧
            (c.curve = none → (c.completed ref e).outcome = .good ∧ (c.completed ref e).value = none) ∧
            ∀ k, c.curve = some k → (c.completed ref e).outcome = (k.apply q).1 ∧
              (c.completed ref e).value = some (k.apply q).2)

/-- R71: a curve with increasing x values answers UNDER with the first y below its first x, OVER with the last y above its
last x, GOOD with the y of a breakpoint met exactly, and GOOD between two breakpoints with the nearest whole number to the
exact interpolation, a tie away from zero, never outside the two y values. -/
def Obligations.CurveRule : Prop :=
  ∀ (k : Curve) (x : Nat), increasing k.points = true →
    (∀ p rest, k.points = p :: rest → x < p.x → k.apply x = (.under, p.y)) ∧
    (∀ p front, k.points = front ++ [p] → p.x < x → k.apply x = (.over, p.y)) ∧
    (∀ p ∈ k.points, p.x = x → k.apply x = (.good, p.y)) ∧
    (∀ a b front back, k.points = front ++ a :: b :: back → a.x < x → x < b.x →
      ∃ v : Int, k.apply x = (.good, v) ∧ min a.y b.y ≤ v ∧ v ≤ max a.y b.y ∧
        nearestAway (a.y * ((b.x : Int) - a.x) + (b.y - a.y) * ((x : Int) - a.x)) ((b.x : Int) - a.x) v)

/-- R87: the limit state machine, one move of an evaluation of a present value from the state it finds; a condition that
names an absent bound is false, and an evaluation without limits leaves NORMAL. -/
def Obligations.LimitRule : Prop :=
  ∀ (r : Result) (v : Int), r.value = some v →
    (r.evaluate none).limit = .normal ∧
    ∀ l : Limits,
      (r.limit = .normal → (∃ h, l.high = some h ∧ h < v) → (r.evaluate (some l)).limit = .high) ∧
      (r.limit = .normal → (∃ b, l.low = some b ∧ v < b) → (∀ h, l.high = some h → v ≤ h) →
        (r.evaluate (some l)).limit = .low) ∧
      (r.limit = .normal → (∀ h, l.high = some h → v ≤ h) → (∀ b, l.low = some b → b ≤ v) →
        (r.evaluate (some l)).limit = .normal) ∧
      (∀ h, r.limit = .high → l.high = some h → v ≤ h - l.hysteresis → (∃ b, l.low = some b ∧ v < b) →
        (r.evaluate (some l)).limit = .low) ∧
      (∀ h, r.limit = .high → l.high = some h → v ≤ h - l.hysteresis → (∀ b, l.low = some b → b ≤ v) →
        (r.evaluate (some l)).limit = .normal) ∧
      (∀ h, r.limit = .high → l.high = some h → h - l.hysteresis < v → (r.evaluate (some l)).limit = .high) ∧
      (∀ b, r.limit = .low → l.low = some b → b + l.hysteresis ≤ v → (∃ h, l.high = some h ∧ h < v) →
        (r.evaluate (some l)).limit = .high) ∧
      (∀ b, r.limit = .low → l.low = some b → b + l.hysteresis ≤ v → (∀ h, l.high = some h → v ≤ h) →
        (r.evaluate (some l)).limit = .normal) ∧
      (∀ b, r.limit = .low → l.low = some b → v < b + l.hysteresis → (r.evaluate (some l)).limit = .low)

/-- R75, R76, R77: SET_CURVE refuses a curve that breaks the rules of a curve, and otherwise stores or removes it,
recomputes an outcome of GOOD, UNDER or OVER with its value from the stored input, evaluates the limits, raises LIMIT and
QUALITY on their changes and marks the channel's fields dirty. -/
def Obligations.SetCurve : Prop :=
  ∀ (p : List Byte) (s : State) (i : Slot) (g : Fin 16) (c : Channel), s.takes →
    3 ≤ p.length → p.length = 3 + 5 * (byteAt p 2).toNat → (byteAt p 2 = 0#8 ∨ (byteAt p 1).toNat ≤ 3) →
    chanHandle (byteAt p 0) = some (i, g) → s.accept i g = some c →
    (curveOk c.defn (breakpoints p (byteAt p 2).toNat) = false →
      exec (.setCurve p) s = .next { s with hp := s.answered .badCurve [] }) ∧
    (curveOk c.defn (breakpoints p (byteAt p 2).toNat) = true → ∃ (k : Option Curve) (r : Result),
      (byteAt p 2 = 0#8 → k = none) ∧
      (byteAt p 2 ≠ 0#8 →
        k = some { decimals := (byteAt p 1).toNat, points := breakpoints p (byteAt p 2).toNat }) ∧
      (c.result.outcome ≠ .good → c.result.outcome ≠ .under → c.result.outcome ≠ .over →
        r = c.result.evaluate c.limits) ∧
      (∀ x, (c.result.outcome = .good ∨ c.result.outcome = .under ∨ c.result.outcome = .over) → c.input = some x →
        r = (match k with
          | none => ({ c.result with outcome := .good, value := none } : Result)
          | some k => { c.result with outcome := (k.apply x).1, value := some (k.apply x).2 }).evaluate c.limits) ∧
      exec (.setCurve p) s = .next { s with
        ct := s.tableWith i { c with curve := k, result := r }
        au := s.pairsRaised i false (r.limit ≠ c.result.limit) (r.outcome ≠ c.result.outcome) false
        re := s.dirtied (s.fieldsOf i)
        hp := s.answered .ok [] })

/-- R89, R90: SET_LIMITS in SET mode refuses a set with no bound, or with a band no wider than twice the hysteresis, and
otherwise stores it; REMOVE removes the set. Either resets the limit state to NORMAL and evaluates it once against the
present value, raises LIMIT on a change and marks the fields dirty. -/
def Obligations.SetLimits : Prop :=
  ∀ (p : List Byte) (s : State) (i : Slot) (g : Fin 16) (c : Channel), s.takes → p.length = 10 →
    chanHandle (byteAt p 0) = some (i, g) → s.accept i g = some c →
    (decodeLimits p = none → exec (.setLimits p) s = .next { s with hp := s.answered .badParameter [] }) ∧
    (decodeLimits p = some none → exec (.setLimits p) s = .next { s with
      ct := s.tableWith i { c with limits := none, result := { c.result with limit := .normal } }
      au := s.pairsRaised i false (c.result.limit ≠ .normal) false false
      re := s.dirtied (s.fieldsOf i)
      hp := s.answered .ok [] }) ∧
    (∀ l : Limits, decodeLimits p = some (some l) →
      ((l.low = none ∧ l.high = none) ∨
          (∃ a b, l.low = some a ∧ l.high = some b ∧ b - a ≤ 2 * (l.hysteresis : Int)) →
        exec (.setLimits p) s = .next { s with hp := s.answered .badLimits [] }) ∧
      ((l.low ≠ none ∨ l.high ≠ none) →
          (∀ a b, l.low = some a → l.high = some b → 2 * (l.hysteresis : Int) < b - a) →
        exec (.setLimits p) s = .next { s with
          ct := s.tableWith i { c with
            limits := some l
            result := ({ c.result with limit := .normal } : Result).evaluate (some l) }
          au := s.pairsRaised i false
            ((({ c.result with limit := .normal } : Result).evaluate (some l)).limit ≠ c.result.limit) false false
          re := s.dirtied (s.fieldsOf i)
          hp := s.answered .ok [] }))

/-- R82, R84: SET_STALE_LIMIT refuses a limit above 16383 and otherwise stores it, judges the freshness of a present result
again (STALE exactly when the limit is nonzero and the age has reached it), raises QUALITY on a change and marks the
fields dirty. -/
def Obligations.SetStaleLimit : Prop :=
  ∀ (b hi lo : Byte) (s : State) (i : Slot) (g : Fin 16) (c : Channel), s.takes → chanHandle b = some (i, g) →
    s.accept i g = some c →
    (16383 < hi.toNat * 256 + lo.toNat →
      exec (.setStaleLimit [b, hi, lo]) s = .next { s with hp := s.answered .badParameter [] }) ∧
    (hi.toNat * 256 + lo.toNat ≤ 16383 →
      (c.result.outcome = .none → exec (.setStaleLimit [b, hi, lo]) s = .next { s with
        ct := s.tableWith i { c with staleLimit := hi.toNat * 256 + lo.toNat }
        re := s.dirtied (s.fieldsOf i)
        hp := s.answered .ok [] }) ∧
      ∀ a, c.result.outcome ≠ .none → c.result.age = some a →
        ∃ f : Freshness, (f = .stale ↔ hi.toNat * 256 + lo.toNat ≠ 0 ∧ hi.toNat * 256 + lo.toNat ≤ a) ∧
          exec (.setStaleLimit [b, hi, lo]) s = .next { s with
            ct := s.tableWith i { c with
              staleLimit := hi.toNat * 256 + lo.toNat
              result := { c.result with freshness := some f } }
            au := s.pairsRaised i false false (some f ≠ c.result.freshness) false
            re := s.dirtied (s.fieldsOf i)
            hp := s.answered .ok [] })

/-! ## Fields and rendering -/

/-- R98, R99, R104: a BIND_FIELD that passes its checks fills the lowest FREE field slot with host data absent, claims
every address of its list, marks the field dirty and answers its handle at the slot's generation. -/
def Obligations.BindField : Prop :=
  ∀ (p : List Byte) (q : BindReq) (s : State) (f : FieldIx) (segs : List SegAddr), s.takes →
    11 ≤ p.length → p.length = 11 + (byteAt p 10).toNat → decodeBind p = some q →
    lengthAllowed q.kind segs.length = true → s.sourceLive q.source = true → s.firstFreeField f →
    (p.drop 11).map segAddr = segs.map some → (∀ a ∈ segs, inGeometry s.gs.settings.duty a = true) → segs.Nodup →
    (∀ a ∈ segs, s.ft.owners[a] = none) →
    ∃ owners, (∀ a : SegAddr, owners[a] = if a ∈ segs then some f else s.ft.owners[a]) ∧
      exec (.bindField p) s = .next { s with
        ft := { slots := vput s.ft.slots f
                  { gen := s.ft.slots[f].gen
                    occupant := some
                      { kind := q.kind, visible := q.look.visible, blinkMode := q.look.blinkMode
                        blinkRate := q.look.blinkRate, source := q.source, hostData := none, segs := segs } }
                owners := owners }
        re := s.dirtied [f]
        hp := s.answered .ok [fieldByte f s.ft.slots[f].gen] }

/-- R103: the checks of BIND_FIELD in their order, each refusal changing nothing but the host port; the refusals of the
list name the first failing entry, counted from 0, and SEGMENT_TAKEN also the owner. -/
def Obligations.BindRefusals : Prop :=
  ∀ (p : List Byte) (s : State), s.takes → 11 ≤ p.length → p.length = 11 + (byteAt p 10).toNat →
    (decodeBind p = none → exec (.bindField p) s = .next { s with hp := s.answered .badParameter [] }) ∧
    ∀ q, decodeBind p = some q →
      (lengthAllowed q.kind (byteAt p 10).toNat = false →
        exec (.bindField p) s = .next { s with hp := s.answered .badLength [] }) ∧
      (lengthAllowed q.kind (byteAt p 10).toNat = true →
        (s.sourceLive q.source = false →
          exec (.bindField p) s = .next { s with hp := s.answered .staleHandle [] }) ∧
        (s.sourceLive q.source = true →
          ((∀ f : FieldIx, s.field f ≠ none) →
            exec (.bindField p) s = .next { s with hp := s.answered .noSlot [] }) ∧
          ∀ f : FieldIx, s.field f = none →
            (∀ front b back, p.drop 11 = front ++ b :: back → (∀ x ∈ front, (s.addrIn x).isSome = true) →
              s.addrIn b = none →
              exec (.bindField p) s =
                .next { s with hp := s.answered .segmentRange [BitVec.ofNat 8 front.length] }) ∧
            ∀ segs, (p.drop 11).map s.addrIn = segs.map some →
              (∀ front a back, segs = front ++ a :: back → front.Nodup → a ∈ front →
                exec (.bindField p) s =
                  .next { s with hp := s.answered .duplicateSegment [BitVec.ofNat 8 front.length] }) ∧
              (segs.Nodup → ∀ front a back o, segs = front ++ a :: back → (∀ x ∈ front, s.ft.owners[x] = none) →
                s.ft.owners[a] = some o →
                exec (.bindField p) s = .next { s with
                  hp := s.answered .segmentTaken
                    [BitVec.ofNat 8 front.length, fieldByte o s.ft.slots[o].gen] })))

/-- R99, R105, R106: EDIT_FIELD replaces a field's appearance and editable parameters and marks it dirty, or refuses a
condition its source is not admitted for; RETARGET_FIELD sets another admitted source, keeping host data only for HOST,
and marks the field dirty. -/
def Obligations.EditAndRetarget : Prop :=
  ∀ (s : State) (f : FieldIx) (g : Fin 4) (d : Field), s.takes → s.acceptField f g = some d →
    (∀ p look kind, p.length = 10 → fieldHandle (byteAt p 0) = some (f, g) → decodeAppearance p = some look →
      editKind d.kind p = some kind →
      (admits kind d.source = false → exec (.editField p) s = .next { s with hp := s.answered .wrongState [] }) ∧
      (admits kind d.source = true → exec (.editField p) s = .next { s with
        ft := s.fieldsWith f { d with
          kind := kind, visible := look.visible, blinkMode := look.blinkMode, blinkRate := look.blinkRate }
        re := s.dirtied [f]
        hp := s.answered .ok [] })) ∧
    ∀ b x y src, fieldHandle b = some (f, g) → decodeSource x y = some src →
      (s.sourceLive src = false →
        exec (.retargetField [b, x, y]) s = .next { s with hp := s.answered .staleHandle [] }) ∧
      (s.sourceLive src = true → admits d.kind src = false →
        exec (.retargetField [b, x, y]) s = .next { s with hp := s.answered .wrongState [] }) ∧
      (s.sourceLive src = true → admits d.kind src = true →
        exec (.retargetField [b, x, y]) s = .next { s with
          ft := s.fieldsWith f { d with source := src, hostData := if src = .host then d.hostData else none }
          re := s.dirtied [f]
          hp := s.answered .ok [] })

/-- R107: RETIRE_FIELD returns every address of the field to no owner and to OFF in the pending plane with the changed
mark set, removes the field from the render queue, and frees the slot with its generation advanced. -/
def Obligations.RetireField : Prop :=
  ∀ (b : Byte) (s : State) (f : FieldIx) (g : Fin 4) (d : Field), s.takes → fieldHandle b = some (f, g) →
    s.acceptField f g = some d →
    ∃ owners plane,
      (∀ a : SegAddr, owners[a] = if a ∈ d.segs then none else s.ft.owners[a]) ∧
      (∀ a : SegAddr, (plane : Plane)[a] = if a ∈ d.segs then .off else s.re.plane[a]) ∧
      exec (.retireField [b]) s = .next { s with
        ft := { slots := vput s.ft.slots f { gen := g + 1, occupant := none }, owners := owners }
        re := { queue := s.re.queue.erase f, plane := plane, changed := true }
        hp := s.answered .ok [] }

/-- R128: SET_FIELD_VALUE stores data of the kind's form in a field whose source is HOST and marks it dirty; a field with
another source, data of another form, and a pattern of another length are refused in that order. -/
def Obligations.SetFieldValue : Prop :=
  ∀ (p : List Byte) (s : State) (f : FieldIx) (g : Fin 4) (d : Field) (x : Option HostDatum), s.takes →
    valueLengthOk p = true → fieldHandle (byteAt p 0) = some (f, g) → decodeDatum p = some x →
    s.acceptField f g = some d →
    (d.source ≠ .host → exec (.setFieldValue p) s = .next { s with hp := s.answered .wrongState [] }) ∧
    (d.source = .host → formMatches d.kind x = false →
      exec (.setFieldValue p) s = .next { s with hp := s.answered .badParameter [] }) ∧
    (d.source = .host → formMatches d.kind x = true → (∃ e, x = some (.pattern e) ∧ e.length ≠ d.segs.length) →
      exec (.setFieldValue p) s = .next { s with hp := s.answered .badLength [] }) ∧
    (d.source = .host → formMatches d.kind x = true → (∀ e, x = some (.pattern e) → e.length = d.segs.length) →
      exec (.setFieldValue p) s = .next { s with
        ft := s.fieldsWith f { d with hostData := x }
        re := s.dirtied [f]
        hp := s.answered .ok [] })

/-- R116, R117, R120: a render takes the head of the render queue and reads its field's source as it stands: nothing for
DETACHED, the host data for HOST, and the result part with the curve's decimals for a channel. It writes each of the
field's segments in the pending plane: dark segments and a field that is not visible OFF, lit ones ON or, while the blink
mode's condition holds, blinking at the field's rate; it leaves every other segment as it was, and sets the changed mark.
With an empty render queue nothing is rendered (notes/assumptions/6.md). -/
def Obligations.Render : Prop :=
  (∀ s : State, s.re.queue = [] → exec .render s = .next s) ∧
  ∀ (s : State) (f : FieldIx) (rest : List FieldIx) (d : Field), s.re.queue = f :: rest → s.field f = some d →
    d.segs.Nodup →
    ∃ (view : SourceView) (blinking : Bool) (plane : Plane),
      (d.source = .detached → view = .detached) ∧
      (d.source = .host → view = .host d.hostData) ∧
      (∀ i g c, d.source = .channel i g → s.accept i g = some c →
        view = .channel c.result (match c.curve with
          | none => 0
          | some k => k.decimals)) ∧
      (blinking = true ↔ d.blinkMode = .always ∨
        (d.blinkMode = .onAlarm ∧ ∃ r dec, view = .channel r dec ∧ (r.limit = .low ∨ r.limit = .high)) ∨
        (d.blinkMode = .onDoubt ∧ (view = .detached ∨ view = .host none ∨
          ∃ r dec, view = .channel r dec ∧ (r.outcome ≠ .good ∨ r.freshness = some .stale)))) ∧
      (∀ a : SegAddr, a ∉ d.segs → plane[a] = s.re.plane[a]) ∧
      (∀ (j : Nat) (a : SegAddr), d.segs[j]? = some a → plane[a] =
        if d.visible = true ∧ (litSegments d.kind d.segs.length view)[j]? = some true then
          (if blinking = true then (if d.blinkRate = .slow then .blinkSlow else .blinkFast) else .on)
        else .off) ∧
      exec .render s = .next { s with re := { queue := rest, plane := plane, changed := true } }

/-- R122, R123, R124: what a NUMERIC field makes of a number. It is kept, divided with rounding to nearest and ties away
from zero, or multiplied, to come to the field decimals; a product outside -32768..32767, or a digit string with its minus
position longer than the width, shows the OVER substitute; and otherwise the digits, led by zeros up to one before the
point, fill the rightmost positions. -/
def Obligations.NumberRule : Prop :=
  ∀ (width d dec : Nat) (sign : Bool) (m : Int), d < width → -32768 ≤ m → m ≤ 32767 →
    (d < dec → ∃ v, rescale m dec d = some v ∧ nearestAway m (10 ^ (dec - d)) v) ∧
    (d = dec → rescale m dec d = some m) ∧
    (dec < d → rescale m dec d =
      if -32768 ≤ m * 10 ^ (d - dec) ∧ m * 10 ^ (d - dec) ≤ 32767 then some (m * 10 ^ (d - dec)) else none) ∧
    (rescale m dec d = none → numberLayout width sign d m dec = overLayout width) ∧
    ∀ v, rescale m dec d = some v → ∃ ds : List (Fin 10),
      ds.foldl (fun n x => n * 10 + x.val) 0 = v.natAbs ∧ d + 1 ≤ ds.length ∧
      (d + 1 < ds.length → ds.head? ≠ some 0) ∧
      (width < ds.length + (if v < 0 ∧ sign = false then 1 else 0) →
        numberLayout width sign d m dec = overLayout width) ∧
      ∀ blanks, blanks + ds.length + (if v < 0 ∧ sign = false then 1 else 0) = width →
        numberLayout width sign d m dec =
          { glyphs := List.replicate blanks .blank
              ++ ((if v < 0 ∧ sign = false then [.dash] else []) ++ ds.map .digit)
            sign := sign && decide (v < 0)
            pointAt := if d = 0 then none else some (width - 1 - d) }

/-- R98, R121, R122, R124: what a NUMERIC field shows of each source state, the glyphs of the four substitutes at every width,
the segments each glyph lights, and where they stand in the field's list: position by position, a to g and then the
decimal point, with the sign segment last. -/
def Obligations.NumericChoice : Prop :=
  (∀ (width d : Nat) (points sign : Bool) (n : Nat) (view : SourceView),
    litSegments (.numeric width points sign d) n view = (numericLayout width sign d view).lit points sign) ∧
  (∀ (width d : Nat) (sign : Bool),
    (∀ view : SourceView, (view = .detached ∨ view = .host none ∨
        (∃ r dec, view = .channel r dec ∧ (r.outcome = .none ∨ (r.outcome = .good ∧ r.value = none)))) →
      numericLayout width sign d view = { glyphs := List.replicate width .dash, sign := false, pointAt := none }) ∧
    (∀ m, numericLayout width sign d (.host (some (.value m))) = numberLayout width sign d m d) ∧
    ∀ (r : Result) (dec : Nat),
      (∀ m, r.outcome = .good → r.value = some m →
        numericLayout width sign d (.channel r dec) = numberLayout width sign d m dec) ∧
      (r.outcome = .under → numericLayout width sign d (.channel r dec) = underLayout width sign) ∧
      (r.outcome = .over ∨ r.outcome = .overflow → numericLayout width sign d (.channel r dec) = overLayout width) ∧
      (r.outcome = .noSignal → numericLayout width sign d (.channel r dec) = noSignalLayout width) ∧
      (r.outcome = .noReference → numericLayout width sign d (.channel r dec) = noReferenceLayout width)) ∧
  overLayout 1 = { glyphs := [.letH], sign := false, pointAt := none } ∧
  underLayout 1 true = { glyphs := [.letL], sign := true, pointAt := none } ∧
  underLayout 1 false = { glyphs := [.letL], sign := false, pointAt := none } ∧
  underLayout 2 false = { glyphs := [.letO, .letL], sign := false, pointAt := none } ∧
  noSignalLayout 1 = { glyphs := [.letE], sign := false, pointAt := none } ∧
  noSignalLayout 2 = { glyphs := [.blank, .letE], sign := false, pointAt := none } ∧
  noReferenceLayout 1 = { glyphs := [.letr], sign := false, pointAt := none } ∧
  noReferenceLayout 2 = { glyphs := [.blank, .letr], sign := false, pointAt := none } ∧
  (∀ k : Nat,
    overLayout (k + 2) = { glyphs := List.replicate k .blank ++ [.letO, .letL], sign := false, pointAt := none } ∧
    underLayout (k + 2) true =
      { glyphs := List.replicate k .blank ++ [.letO, .letL], sign := true, pointAt := none } ∧
    underLayout (k + 3) false =
      { glyphs := List.replicate k .blank ++ [.dash, .letO, .letL], sign := false, pointAt := none } ∧
    noSignalLayout (k + 3) =
      { glyphs := List.replicate k .blank ++ [.letE, .letr, .letr], sign := false, pointAt := none } ∧
    noReferenceLayout (k + 3) =
      { glyphs := List.replicate k .blank ++ [.letr, .letE, .letF], sign := false, pointAt := none }) ∧
  ([.digit 0, .digit 1, .digit 2, .digit 3, .digit 4, .digit 5, .digit 6, .digit 7, .digit 8, .digit 9, .blank, .dash,
      .letO, .letL, .letH, .letE, .letr, .letF] : List Glyph).map
      (fun g => (g.lights.zipIdx.filter fun x => x.1).map fun x => x.2) =
    [[0, 1, 2, 3, 4, 5], [1, 2], [0, 1, 3, 4, 6], [0, 1, 2, 3, 6], [1, 2, 5, 6], [0, 2, 3, 5, 6], [0, 2, 3, 4, 5, 6],
      [0, 1, 2], [0, 1, 2, 3, 4, 5, 6], [0, 1, 2, 3, 5, 6], [], [6], [0, 1, 2, 3, 4, 5], [3, 4, 5], [1, 2, 4, 5, 6],
      [0, 3, 4, 5, 6], [4, 6], [0, 4, 5, 6]] ∧
  (∀ g : Glyph, g.lights.length = 7) ∧
  ∀ (l : Layout) (points sign : Bool),
    (∀ (k : Nat) (g : Glyph), l.glyphs[k]? = some g →
      (∀ j : Nat, j < 7 → (l.lit points sign)[k * (if points then 8 else 7) + j]? = g.lights[j]?) ∧
      (points = true → (l.lit points sign)[k * 8 + 7]? = some (decide (l.pointAt = some k)))) ∧
    (sign = true → (l.lit points sign)[l.glyphs.length * (if points then 8 else 7)]? = some l.sign) ∧
    (l.lit points sign).length = l.glyphs.length * (if points then 8 else 7) + (if sign then 1 else 0)

/-- R125, R126: a BAR lights its first k segments, k the nearest whole number to n × (v − lo) ÷ (hi − lo) with ties upward,
held to 0..n; an INDICATOR lights all or none by its condition; a PATTERN lights the elements that are ON, and none without
host data. -/
def Obligations.BarIndicatorPattern : Prop :=
  ∀ n : Nat,
    (∀ (lo hi v : Int), lo < hi → ∃ k q : Int,
      2 * (hi - lo) * q ≤ 2 * (n * (v - lo)) + (hi - lo) ∧ 2 * (n * (v - lo)) + (hi - lo) < 2 * (hi - lo) * (q + 1) ∧
      k = max 0 (min (n : Int) q) ∧
      (∀ r dec, r.outcome = .good → r.value = some v → ∀ j : Nat,
        (litSegments (.bar lo hi) n (.channel r dec))[j]? = if j < n then some (decide (j < k)) else none) ∧
      ∀ j : Nat, (litSegments (.bar lo hi) n (.host (some (.value v))))[j]? =
        if j < n then some (decide (j < k)) else none) ∧
    (∀ (lo hi : Int) (r : Result) (dec : Nat),
      (r.outcome = .over ∨ r.outcome = .overflow → litSegments (.bar lo hi) n (.channel r dec) = List.replicate n true) ∧
      (r.outcome = .under ∨ r.outcome = .none ∨ r.outcome = .noSignal ∨ r.outcome = .noReference →
        litSegments (.bar lo hi) n (.channel r dec) = List.replicate n false) ∧
      (r.outcome = .good → r.value = none →
        litSegments (.bar lo hi) n (.channel r dec) = List.replicate n false) ∧
      litSegments (.bar lo hi) n .detached = List.replicate n false ∧
      litSegments (.bar lo hi) n (.host none) = List.replicate n false) ∧
    (∀ (r : Result) (dec : Nat),
      litSegments (.indicator .high) n (.channel r dec) = List.replicate n (decide (r.limit = .high)) ∧
      litSegments (.indicator .low) n (.channel r dec) = List.replicate n (decide (r.limit = .low)) ∧
      litSegments (.indicator .alarm) n (.channel r dec) = List.replicate n (decide (r.limit ≠ .normal)) ∧
      litSegments (.indicator .doubt) n (.channel r dec) =
        List.replicate n (decide (r.outcome ≠ .good ∨ r.freshness = some .stale)) ∧
      litSegments (.indicator .stale) n (.channel r dec) = List.replicate n (decide (r.freshness = some .stale))) ∧
    (∀ c, litSegments (.indicator c) n .detached = List.replicate n false) ∧
    (∀ x : Option HostDatum,
      litSegments (.indicator .hostFlag) n (.host x) = List.replicate n (decide (x = some (.flag true)))) ∧
    (∀ e : List Bool, e.length = n → litSegments .pattern n (.host (some (.pattern e))) = e) ∧
    litSegments .pattern n (.host none) = List.replicate n false

/-! ## The glass -/

/-- R131, R143, R144: SET_GLASS refuses a set that is not valid, then a held display, then a duty that would remove an
owned segment, naming the first in address order with its owner; otherwise it stores the set and waits. -/
def Obligations.SetGlass : Prop :=
  ∀ (p : List Byte) (s : State), s.takes → p.length = 5 →
    (decodeGlass p = none → exec (.setGlass p) s = .next { s with hp := s.answered .badParameter [] }) ∧
    ∀ g, decodeGlass p = some g →
      (s.gs.hold ≠ none → exec (.setGlass p) s = .next { s with hp := s.answered .held [] }) ∧
      (∀ (a : SegAddr) (f : FieldIx), s.gs.hold = none → inGeometry s.gs.settings.duty a = true →
        inGeometry g.duty a = false → s.ft.owners[a] = some f →
        (∀ b : SegAddr, b < a → inGeometry s.gs.settings.duty b = true → inGeometry g.duty b = false →
          s.ft.owners[b] = none) →
        exec (.setGlass p) s = .next { s with
          hp := s.answered .geometryConflict [addrByte a, fieldByte f s.ft.slots[f].gen] }) ∧
      (s.gs.hold = none → (∀ a : SegAddr, inGeometry s.gs.settings.duty a = true → inGeometry g.duty a = false →
          s.ft.owners[a] = none) →
        exec (.setGlass p) s = .next { s with
          gs := { s.gs with pendingSettings := some g }
          hp := s.waitingPort .setGlass })

/-- R139, R140: HOLD_DISPLAY with a timeout of 1..255 starts or restarts the hold with it; RELEASE_DISPLAY ends a hold, and
without one is refused NOT_HELD. -/
def Obligations.HoldAndRelease : Prop :=
  ∀ s : State, s.takes →
    exec (.holdDisplay [0#8]) s = .next { s with hp := s.answered .badParameter [] } ∧
    (∀ b : Byte, b ≠ 0#8 → exec (.holdDisplay [b]) s = .next { s with
      gs := { s.gs with hold := some b.toNat }, hp := s.answered .ok [] }) ∧
    (s.gs.hold ≠ none → exec (.releaseDisplay []) s = .next { s with
      gs := { s.gs with hold := none }, hp := s.answered .ok [] }) ∧
    (s.gs.hold = none → exec (.releaseDisplay []) s = .next { s with hp := s.answered .notHeld [] })

/-- R102, R132, R133, R136, R137, R138, R180: a frame end first applies pending settings, a change of duty keeping the entries
of the addresses common to both geometries and clearing the others, and answers the waiting SET_GLASS; then commits the
pending plane when the changed mark is set and the display is not held; then begins the next frame with the polarity
reversed and the frame timer reloaded. While a reset is held the frame timer is stopped and FRAME_END changes nothing
(R180). -/
def Obligations.FrameEnd : Prop :=
  (∀ s : State, s.csu.held = true → exec .frameEnd s = .next s) ∧
  ∀ s : State, s.csu.held = false →
    (s.gs.pendingSettings = none → exec .frameEnd s = .next { s with
      re := { s.re with changed := s.re.changed && s.gs.hold.isSome }
      gs := { s.gs with
        shown := if s.re.changed = true ∧ s.gs.hold = none then s.re.plane else s.gs.shown
        frameTimer := s.gs.settings.period.periods
        drive := s.nextDrive (if s.re.changed = true ∧ s.gs.hold = none then s.re.plane else s.gs.shown)
          s.gs.settings.display } }) ∧
    ∀ g, s.gs.pendingSettings = some g → s.hp.waiting = some .setGlass → s.gs.hold = none →
      ∃ owners plane shown,
        (∀ a : SegAddr, owners[a] = if g.duty = s.gs.settings.duty ∨
          (inGeometry s.gs.settings.duty a = true ∧ inGeometry g.duty a = true) then s.ft.owners[a] else none) ∧
        (∀ a : SegAddr, (plane : Plane)[a] = if g.duty = s.gs.settings.duty ∨
          (inGeometry s.gs.settings.duty a = true ∧ inGeometry g.duty a = true) then s.re.plane[a] else .off) ∧
        (∀ a : SegAddr, (shown : Plane)[a] = if s.re.changed = true then plane[a] else
          if g.duty = s.gs.settings.duty ∨
            (inGeometry s.gs.settings.duty a = true ∧ inGeometry g.duty a = true) then s.gs.shown[a] else .off) ∧
        exec .frameEnd s = .next { s with
          ft := { s.ft with owners := owners }
          re := { s.re with plane := plane, changed := false }
          gs := { s.gs with
            settings := g
            pendingSettings := none
            shown := shown
            frameTimer := g.period.periods
            drive := s.nextDrive shown g.display }
          hp := s.ended .ok [] }

/-- R22, R132, R133, R184: what the pins show. A segment is lit exactly when no reset is held, the display is on in the drive
fixed for the frame, and its state in that drive is ON or a blink state whose phase is on. While a reset is held every
line is at VSS; with the display OFF every line is at one level; and else the common lines are selected in turn, each for
a share of the frame within one slow-clock period of an equal one. That the turn is COM0 upward, and that the last line
stays selected from the frame timer's 0 to the frame end, is a choice of the model (notes/assumptions/21.md). The shared pin follows the duty, the sensor pins the multiplexer, and SDO is driven while CS is
low. -/
def Obligations.PinsAndGlass : Prop :=
  (∀ s : State,
    (∀ a : SegAddr, s.glassLit a = true ↔ s.csu.held = false ∧ s.gs.drive.display = true ∧
      (s.gs.drive.plane[a] = .on ∨ (s.gs.drive.plane[a] = .blinkSlow ∧ s.gs.drive.slowLit = true) ∨
        (s.gs.drive.plane[a] = .blinkFast ∧ s.gs.drive.fastLit = true))) ∧
    (s.csu.held = true → s.lineDrive = .vss) ∧
    (s.csu.held = false → s.gs.drive.display = false → s.lineDrive = .level) ∧
    (s.csu.held = false → s.gs.drive.display = true →
      ∃ k : Nat, s.lineDrive = .scan k ∧ k < s.gs.settings.duty.commons ∧
        k * s.gs.settings.period.periods ≤
          (s.gs.settings.period.periods - max s.gs.frameTimer 1) * s.gs.settings.duty.commons ∧
        (s.gs.settings.period.periods - max s.gs.frameTimer 1) * s.gs.settings.duty.commons <
          (k + 1) * s.gs.settings.period.periods ∧
        (s.gs.frameTimer = 0 → k + 1 = s.gs.settings.duty.commons)) ∧
    (s.sharedPin = .com3 ↔ s.gs.settings.duty = .quarter) ∧ (s.sharedPin = .seg32 ↔ s.gs.settings.duty = .third) ∧
    (∀ p : Pin, s.pinConnected p = true ↔ s.ce.mux = some p) ∧ (s.sdoDriven = true ↔ s.hp.select ≠ .high)) ∧
  Duty.commons .quarter = 4 ∧ Duty.commons .third = 3 ∧
  Bias.levels .third = [(0, 1), (1, 3), (2, 3), (1, 1)] ∧ Bias.levels .half = [(0, 1), (1, 2), (1, 1)] ∧
  ∀ (g : GlassSettings) (k : Nat), k < g.duty.commons →
    ((List.range g.period.periods).countP fun t => selectedCommon g t = k) * g.duty.commons <
        g.period.periods + g.duty.commons ∧
      g.period.periods <
        ((List.range g.period.periods).countP fun t => selectedCommon g t = k) * g.duty.commons + g.duty.commons

/-! ## Attention -/

/-- R152, R153, R155: READ_ATTENTION answers the report of the set as it stands and then marks every present pair seen;
ACK_ATTENTION removes the seen pairs of the selected kinds and answers how many went and how many remain;
SET_ATTENTION_MASK replaces the mask; a selector or mask with bit 6 or 7 set is refused. That the open bits 7..6 of the
report's device and mask bytes are the next two free values, counted in `freeIx`, is the model's choice
(notes/assumptions/2.md). -/
def Obligations.AttentionRequests : Prop :=
  ∀ s : State, s.takes →
    (∃ au : Attention,
      (∀ (i : Slot) (k : Cause), (au.channels[i]).get k =
        if (s.au.channels[i]).get k = .absent then .absent else .seen) ∧
      au.holdExpired = (if s.au.holdExpired = .absent then .absent else .seen) ∧
      au.restarted = s.au.restarted.map (fun r => { reason := r.reason, seen := true }) ∧ au.mask = s.au.mask ∧
      exec (.readAttention []) s = .next { s with
        au := au, hp := s.answered .ok (attentionReport s.au s.ct.slots s.freeIx), freeIx := s.freeIx + 2 }) ∧
    (∀ b : Byte, b.toNat < 64 → ∃ au : Attention,
      (∀ (i : Slot) (k : Cause), (au.channels[i]).get k =
        if b.getLsbD k.bit = true ∧ (s.au.channels[i]).get k = .seen then .absent else (s.au.channels[i]).get k) ∧
      au.holdExpired = (if b.getLsbD 4 = true ∧ s.au.holdExpired = .seen then .absent else s.au.holdExpired) ∧
      au.restarted = (if b.getLsbD 5 = true ∧ s.au.restarted.any (fun r => r.seen) = true then none
        else s.au.restarted) ∧ au.mask = s.au.mask ∧
      exec (.ackAttention [b]) s = .next { s with
        au := au
        hp := s.answered .ok [BitVec.ofNat 8 (s.au.count - au.count), BitVec.ofNat 8 au.count] } ∧
      exec (.setAttentionMask [b]) s = .next { s with
        au := { s.au with mask := b.setWidth 6 }, hp := s.answered .ok [] }) ∧
    ∀ b : Byte, 64 ≤ b.toNat →
      exec (.ackAttention [b]) s = .next { s with hp := s.answered .badParameter [] } ∧
      exec (.setAttentionMask [b]) s = .next { s with hp := s.answered .badParameter [] }

/-- R156, R162: ATTN is low exactly when the set holds a pair of an unmasked kind, and the status byte holds the marker
010, the power-on flag, the overrun flag, that condition and the port state. -/
def Obligations.AttnAndStatusByte : Prop :=
  ∀ s : State,
    (s.attnLow = true ↔
      (∃ (i : Slot) (k : Cause), (s.au.channels[i]).get k ≠ .absent ∧ s.au.mask.getLsbD k.bit = false) ∨
      (s.au.holdExpired ≠ .absent ∧ s.au.mask.getLsbD 4 = false) ∨
      (s.au.restarted ≠ none ∧ s.au.mask.getLsbD 5 = false)) ∧
    (statusByte s).toNat / 32 = 2 ∧ (statusByte s).getLsbD 4 = s.hp.powerOn ∧
    (statusByte s).getLsbD 3 = s.hp.overrun ∧ (statusByte s).getLsbD 2 = s.attnLow ∧
    (statusByte s).toNat % 4 = (match s.hp.port with
      | .init => 0
      | .idle => 1
      | .busy => 2
      | .done => 3)

/-! ## Laws every step keeps -/

/-- The state right after reset keeps every law of Sys2Proof/Safety.lean. -/
def Obligations.ResetIsSound : Prop :=
  TableLaws State.reset ∧ ScheduleLaws State.reset ∧ RecordLaw State.reset ∧ SourceLaw State.reset ∧
    DisplayLaws State.reset ∧ ShownLaw State.reset ∧ PairLaw State.reset ∧ WaitLaws State.reset

/-- R134: while the changed mark is clear, the shown plane equals the pending plane; every step keeps it so. -/
def Obligations.StepKeepsShownLaw : Prop :=
  ∀ s t : State, ShownLaw s → step s = .next t → ShownLaw t

/-- R5, R6, R7: every step keeps the tag map, the pin ownership map and the reference links in agreement with the live
channels. -/
def Obligations.StepKeepsTableLaws : Prop :=
  ∀ s t : State, TableLaws s → step s = .next t → TableLaws t

/-- R22, R23, R32, R42, R43, R46, R48, R179: every step keeps the laws of the due queue, of the conversion in flight and of
the timers and one-shots, and leaves no pick to make: never an IDLE engine with an eligible entry queued. -/
def Obligations.StepKeepsScheduleLaws : Prop :=
  ∀ s t : State, ScheduleLaws s → step s = .next t → ScheduleLaws t

/-- R1, R32, R63, R70, R71, R81, R82, R86: every step keeps each live channel's definition, result, freshness, limit state and
curve in agreement, and its raw count, ratio, value, age and result sequence in their ranges. -/
def Obligations.StepKeepsRecordLaw : Prop :=
  ∀ s t : State, RecordLaw s → step s = .next t → RecordLaw t

/-- R97, R98, R99, R100, R108: every step keeps each live field's kind parameters in their ranges, its source, host data and
list length in agreement with its kind, and its channel source's handle accepted. -/
def Obligations.StepKeepsSourceLaw : Prop :=
  ∀ s t : State, SourceLaw s → step s = .next t → SourceLaw t

/-- R101, R102, R114, R118, R131, R135, R136, R139, R143, R164, R178, R180: every step keeps the ownership map in agreement
with the live fields' lists and the geometry, unowned segments OFF in the pending plane, the render queue of live fields,
pending settings with the waiting SET_GLASS, and the frame timer, divider, hold timer and blink counts in their ranges. -/
def Obligations.StepKeepsDisplayLaws : Prop :=
  ∀ s t : State, DisplayLaws s → step s = .next t → DisplayLaws t

/-- R42, R58, R149, R157, R164, R180: every step keeps attention pairs of channel slots to live channels; and it keeps the
port states in agreement with the response slot and the command in progress, and a waiting MEASURE_NOW with a one-shot that
a queued or started conversion will serve. -/
def Obligations.StepKeepsPairAndWaitLaws : Prop :=
  (∀ s t : State, PairLaw s → step s = .next t → PairLaw t) ∧
    ∀ s t : State, WaitLaws s → step s = .next t → WaitLaws t
end

