-- ==== Sys2Proof/Laws/State.lean ====
section
/-! SUPPORT. What each field of State is after one unit is replaced: one lemma for each field and each update, so that no
proof unfolds a record update. -/

namespace Sys2Proof.Machine

@[simp] theorem State.setCt_ct (s : State) (x : ChannelTable) : (s.setCt x).ct = x := rfl
@[simp] theorem State.setCt_ms (s : State) (x : ChannelTable) : (s.setCt x).ms = s.ms := rfl
@[simp] theorem State.setCt_ce (s : State) (x : ChannelTable) : (s.setCt x).ce = s.ce := rfl
@[simp] theorem State.setCt_ft (s : State) (x : ChannelTable) : (s.setCt x).ft = s.ft := rfl
@[simp] theorem State.setCt_re (s : State) (x : ChannelTable) : (s.setCt x).re = s.re := rfl
@[simp] theorem State.setCt_gs (s : State) (x : ChannelTable) : (s.setCt x).gs = s.gs := rfl
@[simp] theorem State.setCt_au (s : State) (x : ChannelTable) : (s.setCt x).au = s.au := rfl
@[simp] theorem State.setCt_hp (s : State) (x : ChannelTable) : (s.setCt x).hp = s.hp := rfl
@[simp] theorem State.setCt_csu (s : State) (x : ChannelTable) : (s.setCt x).csu = s.csu := rfl
@[simp] theorem State.setCt_pending (s : State) (x : ChannelTable) : (s.setCt x).pending = s.pending := rfl
@[simp] theorem State.setCt_freeIx (s : State) (x : ChannelTable) : (s.setCt x).freeIx = s.freeIx := rfl

@[simp] theorem State.setMs_ct (s : State) (x : Scheduler) : (s.setMs x).ct = s.ct := rfl
@[simp] theorem State.setMs_ms (s : State) (x : Scheduler) : (s.setMs x).ms = x := rfl
@[simp] theorem State.setMs_ce (s : State) (x : Scheduler) : (s.setMs x).ce = s.ce := rfl
@[simp] theorem State.setMs_ft (s : State) (x : Scheduler) : (s.setMs x).ft = s.ft := rfl
@[simp] theorem State.setMs_re (s : State) (x : Scheduler) : (s.setMs x).re = s.re := rfl
@[simp] theorem State.setMs_gs (s : State) (x : Scheduler) : (s.setMs x).gs = s.gs := rfl
@[simp] theorem State.setMs_au (s : State) (x : Scheduler) : (s.setMs x).au = s.au := rfl
@[simp] theorem State.setMs_hp (s : State) (x : Scheduler) : (s.setMs x).hp = s.hp := rfl
@[simp] theorem State.setMs_csu (s : State) (x : Scheduler) : (s.setMs x).csu = s.csu := rfl
@[simp] theorem State.setMs_pending (s : State) (x : Scheduler) : (s.setMs x).pending = s.pending := rfl
@[simp] theorem State.setMs_freeIx (s : State) (x : Scheduler) : (s.setMs x).freeIx = s.freeIx := rfl

@[simp] theorem State.setCe_ct (s : State) (x : Engine) : (s.setCe x).ct = s.ct := rfl
@[simp] theorem State.setCe_ms (s : State) (x : Engine) : (s.setCe x).ms = s.ms := rfl
@[simp] theorem State.setCe_ce (s : State) (x : Engine) : (s.setCe x).ce = x := rfl
@[simp] theorem State.setCe_ft (s : State) (x : Engine) : (s.setCe x).ft = s.ft := rfl
@[simp] theorem State.setCe_re (s : State) (x : Engine) : (s.setCe x).re = s.re := rfl
@[simp] theorem State.setCe_gs (s : State) (x : Engine) : (s.setCe x).gs = s.gs := rfl
@[simp] theorem State.setCe_au (s : State) (x : Engine) : (s.setCe x).au = s.au := rfl
@[simp] theorem State.setCe_hp (s : State) (x : Engine) : (s.setCe x).hp = s.hp := rfl
@[simp] theorem State.setCe_csu (s : State) (x : Engine) : (s.setCe x).csu = s.csu := rfl
@[simp] theorem State.setCe_pending (s : State) (x : Engine) : (s.setCe x).pending = s.pending := rfl
@[simp] theorem State.setCe_freeIx (s : State) (x : Engine) : (s.setCe x).freeIx = s.freeIx := rfl

@[simp] theorem State.setFt_ct (s : State) (x : FieldTable) : (s.setFt x).ct = s.ct := rfl
@[simp] theorem State.setFt_ms (s : State) (x : FieldTable) : (s.setFt x).ms = s.ms := rfl
@[simp] theorem State.setFt_ce (s : State) (x : FieldTable) : (s.setFt x).ce = s.ce := rfl
@[simp] theorem State.setFt_ft (s : State) (x : FieldTable) : (s.setFt x).ft = x := rfl
@[simp] theorem State.setFt_re (s : State) (x : FieldTable) : (s.setFt x).re = s.re := rfl
@[simp] theorem State.setFt_gs (s : State) (x : FieldTable) : (s.setFt x).gs = s.gs := rfl
@[simp] theorem State.setFt_au (s : State) (x : FieldTable) : (s.setFt x).au = s.au := rfl
@[simp] theorem State.setFt_hp (s : State) (x : FieldTable) : (s.setFt x).hp = s.hp := rfl
@[simp] theorem State.setFt_csu (s : State) (x : FieldTable) : (s.setFt x).csu = s.csu := rfl
@[simp] theorem State.setFt_pending (s : State) (x : FieldTable) : (s.setFt x).pending = s.pending := rfl
@[simp] theorem State.setFt_freeIx (s : State) (x : FieldTable) : (s.setFt x).freeIx = s.freeIx := rfl

@[simp] theorem State.setRe_ct (s : State) (x : Renderer) : (s.setRe x).ct = s.ct := rfl
@[simp] theorem State.setRe_ms (s : State) (x : Renderer) : (s.setRe x).ms = s.ms := rfl
@[simp] theorem State.setRe_ce (s : State) (x : Renderer) : (s.setRe x).ce = s.ce := rfl
@[simp] theorem State.setRe_ft (s : State) (x : Renderer) : (s.setRe x).ft = s.ft := rfl
@[simp] theorem State.setRe_re (s : State) (x : Renderer) : (s.setRe x).re = x := rfl
@[simp] theorem State.setRe_gs (s : State) (x : Renderer) : (s.setRe x).gs = s.gs := rfl
@[simp] theorem State.setRe_au (s : State) (x : Renderer) : (s.setRe x).au = s.au := rfl
@[simp] theorem State.setRe_hp (s : State) (x : Renderer) : (s.setRe x).hp = s.hp := rfl
@[simp] theorem State.setRe_csu (s : State) (x : Renderer) : (s.setRe x).csu = s.csu := rfl
@[simp] theorem State.setRe_pending (s : State) (x : Renderer) : (s.setRe x).pending = s.pending := rfl
@[simp] theorem State.setRe_freeIx (s : State) (x : Renderer) : (s.setRe x).freeIx = s.freeIx := rfl

@[simp] theorem State.setGs_ct (s : State) (x : Scanner) : (s.setGs x).ct = s.ct := rfl
@[simp] theorem State.setGs_ms (s : State) (x : Scanner) : (s.setGs x).ms = s.ms := rfl
@[simp] theorem State.setGs_ce (s : State) (x : Scanner) : (s.setGs x).ce = s.ce := rfl
@[simp] theorem State.setGs_ft (s : State) (x : Scanner) : (s.setGs x).ft = s.ft := rfl
@[simp] theorem State.setGs_re (s : State) (x : Scanner) : (s.setGs x).re = s.re := rfl
@[simp] theorem State.setGs_gs (s : State) (x : Scanner) : (s.setGs x).gs = x := rfl
@[simp] theorem State.setGs_au (s : State) (x : Scanner) : (s.setGs x).au = s.au := rfl
@[simp] theorem State.setGs_hp (s : State) (x : Scanner) : (s.setGs x).hp = s.hp := rfl
@[simp] theorem State.setGs_csu (s : State) (x : Scanner) : (s.setGs x).csu = s.csu := rfl
@[simp] theorem State.setGs_pending (s : State) (x : Scanner) : (s.setGs x).pending = s.pending := rfl
@[simp] theorem State.setGs_freeIx (s : State) (x : Scanner) : (s.setGs x).freeIx = s.freeIx := rfl

@[simp] theorem State.setAu_ct (s : State) (x : Attention) : (s.setAu x).ct = s.ct := rfl
@[simp] theorem State.setAu_ms (s : State) (x : Attention) : (s.setAu x).ms = s.ms := rfl
@[simp] theorem State.setAu_ce (s : State) (x : Attention) : (s.setAu x).ce = s.ce := rfl
@[simp] theorem State.setAu_ft (s : State) (x : Attention) : (s.setAu x).ft = s.ft := rfl
@[simp] theorem State.setAu_re (s : State) (x : Attention) : (s.setAu x).re = s.re := rfl
@[simp] theorem State.setAu_gs (s : State) (x : Attention) : (s.setAu x).gs = s.gs := rfl
@[simp] theorem State.setAu_au (s : State) (x : Attention) : (s.setAu x).au = x := rfl
@[simp] theorem State.setAu_hp (s : State) (x : Attention) : (s.setAu x).hp = s.hp := rfl
@[simp] theorem State.setAu_csu (s : State) (x : Attention) : (s.setAu x).csu = s.csu := rfl
@[simp] theorem State.setAu_pending (s : State) (x : Attention) : (s.setAu x).pending = s.pending := rfl
@[simp] theorem State.setAu_freeIx (s : State) (x : Attention) : (s.setAu x).freeIx = s.freeIx := rfl

@[simp] theorem State.setHp_ct (s : State) (x : HostPort) : (s.setHp x).ct = s.ct := rfl
@[simp] theorem State.setHp_ms (s : State) (x : HostPort) : (s.setHp x).ms = s.ms := rfl
@[simp] theorem State.setHp_ce (s : State) (x : HostPort) : (s.setHp x).ce = s.ce := rfl
@[simp] theorem State.setHp_ft (s : State) (x : HostPort) : (s.setHp x).ft = s.ft := rfl
@[simp] theorem State.setHp_re (s : State) (x : HostPort) : (s.setHp x).re = s.re := rfl
@[simp] theorem State.setHp_gs (s : State) (x : HostPort) : (s.setHp x).gs = s.gs := rfl
@[simp] theorem State.setHp_au (s : State) (x : HostPort) : (s.setHp x).au = s.au := rfl
@[simp] theorem State.setHp_hp (s : State) (x : HostPort) : (s.setHp x).hp = x := rfl
@[simp] theorem State.setHp_csu (s : State) (x : HostPort) : (s.setHp x).csu = s.csu := rfl
@[simp] theorem State.setHp_pending (s : State) (x : HostPort) : (s.setHp x).pending = s.pending := rfl
@[simp] theorem State.setHp_freeIx (s : State) (x : HostPort) : (s.setHp x).freeIx = s.freeIx := rfl

@[simp] theorem State.setCsu_ct (s : State) (x : ClockUnit) : (s.setCsu x).ct = s.ct := rfl
@[simp] theorem State.setCsu_ms (s : State) (x : ClockUnit) : (s.setCsu x).ms = s.ms := rfl
@[simp] theorem State.setCsu_ce (s : State) (x : ClockUnit) : (s.setCsu x).ce = s.ce := rfl
@[simp] theorem State.setCsu_ft (s : State) (x : ClockUnit) : (s.setCsu x).ft = s.ft := rfl
@[simp] theorem State.setCsu_re (s : State) (x : ClockUnit) : (s.setCsu x).re = s.re := rfl
@[simp] theorem State.setCsu_gs (s : State) (x : ClockUnit) : (s.setCsu x).gs = s.gs := rfl
@[simp] theorem State.setCsu_au (s : State) (x : ClockUnit) : (s.setCsu x).au = s.au := rfl
@[simp] theorem State.setCsu_hp (s : State) (x : ClockUnit) : (s.setCsu x).hp = s.hp := rfl
@[simp] theorem State.setCsu_csu (s : State) (x : ClockUnit) : (s.setCsu x).csu = x := rfl
@[simp] theorem State.setCsu_pending (s : State) (x : ClockUnit) : (s.setCsu x).pending = s.pending := rfl
@[simp] theorem State.setCsu_freeIx (s : State) (x : ClockUnit) : (s.setCsu x).freeIx = s.freeIx := rfl

@[simp] theorem State.setPending_ct (s : State) (x : List Instr) : (s.setPending x).ct = s.ct := rfl
@[simp] theorem State.setPending_ms (s : State) (x : List Instr) : (s.setPending x).ms = s.ms := rfl
@[simp] theorem State.setPending_ce (s : State) (x : List Instr) : (s.setPending x).ce = s.ce := rfl
@[simp] theorem State.setPending_ft (s : State) (x : List Instr) : (s.setPending x).ft = s.ft := rfl
@[simp] theorem State.setPending_re (s : State) (x : List Instr) : (s.setPending x).re = s.re := rfl
@[simp] theorem State.setPending_gs (s : State) (x : List Instr) : (s.setPending x).gs = s.gs := rfl
@[simp] theorem State.setPending_au (s : State) (x : List Instr) : (s.setPending x).au = s.au := rfl
@[simp] theorem State.setPending_hp (s : State) (x : List Instr) : (s.setPending x).hp = s.hp := rfl
@[simp] theorem State.setPending_csu (s : State) (x : List Instr) : (s.setPending x).csu = s.csu := rfl
@[simp] theorem State.setPending_pending (s : State) (x : List Instr) : (s.setPending x).pending = x := rfl
@[simp] theorem State.setPending_freeIx (s : State) (x : List Instr) : (s.setPending x).freeIx = s.freeIx := rfl

@[simp] theorem State.useFree_ct (s : State) (x : Nat) : (s.useFree x).ct = s.ct := rfl
@[simp] theorem State.useFree_ms (s : State) (x : Nat) : (s.useFree x).ms = s.ms := rfl
@[simp] theorem State.useFree_ce (s : State) (x : Nat) : (s.useFree x).ce = s.ce := rfl
@[simp] theorem State.useFree_ft (s : State) (x : Nat) : (s.useFree x).ft = s.ft := rfl
@[simp] theorem State.useFree_re (s : State) (x : Nat) : (s.useFree x).re = s.re := rfl
@[simp] theorem State.useFree_gs (s : State) (x : Nat) : (s.useFree x).gs = s.gs := rfl
@[simp] theorem State.useFree_au (s : State) (x : Nat) : (s.useFree x).au = s.au := rfl
@[simp] theorem State.useFree_hp (s : State) (x : Nat) : (s.useFree x).hp = s.hp := rfl
@[simp] theorem State.useFree_csu (s : State) (x : Nat) : (s.useFree x).csu = s.csu := rfl
@[simp] theorem State.useFree_pending (s : State) (x : Nat) : (s.useFree x).pending = s.pending := rfl
@[simp] theorem State.useFree_freeIx (s : State) (x : Nat) : (s.useFree x).freeIx = s.freeIx + x := rfl

end Sys2Proof.Machine
end

