-- ==== Sys2Proof/Laws/Tables.lean ====
section
/-! SUPPORT. Fixed tables: what a written entry, a run of written entries, the ownership map and a plane read as. -/

namespace Sys2Proof

/-- A table after a write: the written entry at its index, every other entry as before. -/
theorem vput_get {α : Type} {n : Nat} (v : Vector α n) (i j : Fin n) (x : α) :
    (vput v i x)[j] = if j = i then x else v[j] := by
  simp [vput, Vector.getElem_set, Fin.ext_iff, eq_comm]

/-- `vput_get` in the form simp gives an index. -/
theorem vput_getVal {α : Type} {n : Nat} (v : Vector α n) (i j : Fin n) (x : α) :
    (vput v i x)[(j : Nat)] = if j = i then x else v[(j : Nat)] :=
  vput_get v i j x

@[simp] theorem vput_get_self {α : Type} {n : Nat} (v : Vector α n) (i : Fin n) (x : α) :
    (vput v i x)[(i : Nat)] = x := by
  simp [vput_getVal]

theorem vput_get_ne {α : Type} {n : Nat} (v : Vector α n) {i j : Fin n} (x : α) (h : j ≠ i) :
    (vput v i x)[j] = v[j] := by
  rw [vput_get, if_neg h]

/-- Writing the entry a table already has changes nothing. -/
@[simp] theorem vput_same {α : Type} {n : Nat} (v : Vector α n) (i : Fin n) : vput v i v[(i : Nat)] = v := by
  ext j hj
  have := vput_get v i ⟨j, hj⟩ v[(i : Nat)]
  by_cases h : (⟨j, hj⟩ : Fin n) = i
  · subst h; simpa using this
  · simpa [h] using this

/-- The second of two writes of one entry stands. -/
@[simp] theorem vput_vput {α : Type} {n : Nat} (v : Vector α n) (i : Fin n) (x y : α) :
    vput (vput v i x) i y = vput v i y := by
  simp [vput]

/-- Two tables with equal entries are equal. -/
theorem vector_ext {α : Type} {n : Nat} {v w : Vector α n} (h : ∀ i : Fin n, v[i] = w[i]) : v = w := by
  ext j hj
  exact h ⟨j, hj⟩

namespace Machine

/-- The ownership map after one owner is entered for a list of addresses. -/
theorem setOwners_get (m : Vector (Option FieldIx) 132) (addrs : List SegAddr) (o : Option FieldIx) (a : SegAddr) :
    (setOwners m addrs o)[a] = if a ∈ addrs then o else m[a] := by
  induction addrs generalizing m with
  | nil => simp [setOwners]
  | cons b rest ih =>
    have := ih (vput m b o)
    simp only [setOwners, List.foldl_cons] at this ⊢
    rw [this, vput_get]
    by_cases h : a ∈ rest <;> by_cases h' : a = b <;> simp [h, h']

/-- A plane keeps every address that no write names. -/
theorem Plane.write_get_of_notMem (p : Plane) (ws : List (SegAddr × SegState)) (a : SegAddr)
    (h : a ∉ ws.map Prod.fst) : (p.write ws)[a] = p[a] := by
  induction ws generalizing p with
  | nil => rfl
  | cons w rest ih =>
    simp only [List.map_cons, List.mem_cons, not_or] at h
    have := ih (vput p w.1 w.2) h.2
    simp only [Plane.write, List.foldl_cons] at this ⊢
    rw [this, vput_get_ne _ _ h.1]

/-- A plane reads at a written address what was written there, when no address is written twice. -/
theorem Plane.write_get_of_mem (p : Plane) (ws : List (SegAddr × SegState)) (hn : (ws.map Prod.fst).Nodup)
    (w : SegAddr × SegState) (h : w ∈ ws) : (p.write ws)[w.1] = w.2 := by
  induction ws generalizing p with
  | nil => cases h
  | cons x rest ih =>
    simp only [List.map_cons, List.nodup_cons] at hn
    rcases List.mem_cons.1 h with rfl | h
    · have := Plane.write_get_of_notMem (vput p w.1 w.2) rest w.1 hn.1
      simpa [Plane.write, vput_getVal] using this
    · simpa [Plane.write] using ih (vput p x.1 x.2) hn.2 h

/-- A plane after a list of addresses is set to one state. -/
theorem Plane.write_const_get (p : Plane) (addrs : List SegAddr) (x : SegState) (a : SegAddr) :
    (p.write (addrs.map fun b => (b, x)))[a] = if a ∈ addrs then x else p[a] := by
  induction addrs generalizing p with
  | nil => simp [Plane.write]
  | cons b rest ih =>
    have := ih (vput p b x)
    simp only [Plane.write, List.map_cons, List.foldl_cons] at this ⊢
    rw [this, vput_get]
    by_cases h : a ∈ rest <;> by_cases h' : a = b <;> simp [h, h']

end Machine

end Sys2Proof
end

