-- ==== Sys2Proof/Laws/Ops.lean ====
section
/-! SUPPORT. The shared operations over records, the due queue, dirty marks, attention pairs, the engine and completions: one
lemma for each, saying all it does. -/

namespace Sys2Proof.Machine

/-! ## Records -/

/-- A record put into a slot. -/
theorem State.putChannel_eq (s : State) (i : Slot) (c : Channel) :
    s.putChannel i c = { s with ct := s.tableWith i c } := rfl

/-- A record put into a live slot is the one read there; every other slot is as before. -/
theorem State.putChannel_channel (s : State) (i j : Slot) (c : Channel) :
    (s.putChannel i c).channel j = if j = i then some c else s.channel j := by
  by_cases h : j = i
  · subst h; simp [State.putChannel, State.setCt, State.channel]
  · simp [State.putChannel, State.setCt, State.channel, vput_getVal, h]

/-- No generation changes when a record is put. -/
theorem State.putChannel_gen (s : State) (i j : Slot) (c : Channel) :
    (s.putChannel i c).ct.slots[j].gen = s.ct.slots[j].gen := by
  by_cases h : j = i
  · subst h; simp [State.putChannel, State.setCt]
  · simp [State.putChannel, State.setCt, vput_getVal, h]

/-- A change of a live channel's scheduling part. -/
theorem State.onSched_eq {s : State} {i : Slot} {c : Channel} (f : Schedule → Schedule) (h : s.channel i = some c) :
    s.onSched i f = { s with ct := s.tableWith i { c with sched := f c.sched } } := by
  simp [State.onSched, State.onRecord, h, State.putChannel_eq]

/-- A field record put into a slot is the one read there; every other slot is as before. -/
theorem State.putField_field (s : State) (f k : FieldIx) (d : Field) :
    (s.putField f d).field k = if k = f then some d else s.field k := by
  by_cases h : k = f
  · subst h; simp [State.putField, State.setFt, State.field]
  · simp [State.putField, State.setFt, State.field, vput_getVal, h]

/-! ## Dirty marks -/

/-- The fields marked by one event, none of them twice, join the tail in their order; those queued keep their place. -/
theorem State.markAll_eq (s : State) {fs : List FieldIx} (hn : fs.Nodup) :
    s.markAll fs = { s with re := s.dirtied fs } := by
  induction fs generalizing s with
  | nil => simp [State.markAll, State.dirtied]
  | cons f rest ih =>
    obtain ⟨hf, hr⟩ := List.nodup_cons.1 hn
    have step : s.markAll (f :: rest) = (s.markDirty f).markAll rest := rfl
    rw [step, ih _ hr]
    by_cases hq : s.re.queue.contains f = true
    · have hm : s.markDirty f = s := by simp only [State.markDirty, hq, if_true]
      rw [hm]
      simp only [State.dirtied, List.filter_cons, hq, Bool.not_true, Bool.false_eq_true, if_false]
    · have same : ∀ k ∈ rest, (!(s.re.queue ++ [f]).contains k) = !s.re.queue.contains k := by
        intro k hk
        have : k ≠ f := fun e => hf (e ▸ hk)
        simp [this]
      simp only [State.markDirty, hq, State.dirtied, State.setRe, List.filter_cons]
      simp only [Bool.not_false, if_true, Bool.false_eq_true, if_false, List.filter_congr same,
        List.append_assoc, List.singleton_append]

/-- One field marked dirty. -/
theorem State.markDirty_eq (s : State) (f : FieldIx) : s.markDirty f = { s with re := s.dirtied [f] } :=
  State.markAll_eq s (fs := [f]) (by simp)

theorem State.fieldsOf_nodup (s : State) (i : Slot) : (s.fieldsOf i).Nodup :=
  (List.nodup_finRange 24).filter _

/-- The fields of a channel marked dirty, in ascending order. -/
theorem State.markFields_eq (s : State) (i : Slot) : s.markFields i = { s with re := s.dirtied (s.fieldsOf i) } :=
  State.markAll_eq s (s.fieldsOf_nodup i)

/-- The fields of a channel depend on the field table and on the slot's generation alone. -/
theorem State.fieldsOf_congr {s t : State} {i : Slot} (hf : t.ft = s.ft)
    (hg : t.ct.slots[i].gen = s.ct.slots[i].gen) : t.fieldsOf i = s.fieldsOf i := by
  unfold State.fieldsOf State.field
  rw [hf, hg]

/-! ## Attention pairs -/

/-- No raise changes nothing. -/
theorem State.pairsRaised_none (s : State) (i : Slot) : s.pairsRaised i false false false false = s.au := by
  change ({ s.au with channels := vput s.au.channels i s.au.channels[(i : Nat)] } : Attention) = s.au
  rw [vput_same]

/-- The raises of one event for one channel, all together. -/
theorem State.pairsRaised_eq (s : State) (i : Slot) (r l q o : Bool) :
    ((((s.au.raiseIf i .limit l).raiseIf i .quality q).raiseIf i .result r).raiseIf i .oneShot o)
      = s.pairsRaised i r l q o := by
  cases r <;> cases l <;> cases q <;> cases o <;>
    first
      | exact (s.pairsRaised_none i).symm
      | simp [Attention.raiseIf, Attention.raise, State.pairsRaised, raisedIf, SlotPairs.raise]

/-! ## The engine -/

/-- The engine's start of a channel. -/
theorem State.startEngine_eq (s : State) (i : Slot) (d : ChannelDef) :
    s.startEngine i d = { s with
      ce := startedEngine i d, csu := { s.csu with fastClock := decide (d.method = .period) } } := by
  unfold State.startEngine State.setCe State.setCsu startedEngine Conversion.start
  cases hm : d.method <;> by_cases hs : d.settle = 0 <;>
    simp [hs, Conversion.enterCounting, gateUnits]

/-- The abandonment of a channel's conversion, if one is in flight. -/
theorem State.abandon_eq (s : State) (i : Slot) :
    s.abandon i = { s with ce := s.engineWithout i, csu := s.clocksWithout i } := by
  unfold State.abandon State.engineWithout State.clocksWithout
  split <;> rfl

/-! ## Completions -/

/-- Everything a completion of a live channel's conversion does before its pick, and then the pick. -/
theorem State.complete_eq {s : State} {i : Slot} {c : Channel} (e : Ending) (h : s.channel i = some c) :
    s.complete i e = (s.completedWith i c (c.completed (s.refResult c) e)).pick := by
  have hr : s.stopEngine.refResult c = s.refResult c := rfl
  simp only [State.complete, h, State.treatResult, hr, State.markFields_eq]
  refine congrArg State.pick ?_
  generalize c.completed (s.refResult c) e = r
  simp only [State.putResult, State.setAu, State.stopEngine, State.setCe, State.setCsu, State.completionShare]
  rw [State.onSched_eq (c := { c with result := r })]
  · simp only [State.endWait, State.completedWith, State.tableWith, State.putChannel, State.setCt, State.dirtied,
      State.respond, State.setHp, State.ended, Engine.idle, vput_get, vput_vput]
    split <;> simp_all [State.pairsRaised_eq] <;>
      exact congrArg _ (State.fieldsOf_congr rfl (by simp))
  · simp [State.channel, State.putChannel, State.setCt]

end Sys2Proof.Machine
end

