-- ==== Sys2Proof/Laws/Arbiter.lean ====
section
/-! SUPPORT. The arbiter: when an entry is eligible and a reference usable, which entry a pick considers, what a start leaves,
and what no pick changes. -/

namespace Sys2Proof.Machine

/-! ## Conditions -/

/-- The eligibility of an entry (R48). -/
theorem State.eligible_iff (s : State) (i : Slot) : s.eligible i = true ↔ s.mayStart i := by
  unfold State.eligible State.mayStart
  cases s.ms.mode <;> simp [Option.any_eq_true]

/-- The usability of a result (R50). -/
theorem Result.usable_iff (r : Result) (maxAge d : Nat) : r.usable maxAge = some d ↔ r.usableWith maxAge d := by
  unfold Result.usable Result.usableWith
  cases hr : r.raw <;> cases ha : r.age <;> simp
  rename_i n a
  constructor
  · rintro ⟨⟨h1, h2, h3⟩, rfl⟩; exact ⟨h1, rfl, h2, h3⟩
  · rintro ⟨h1, rfl, h2, h3⟩; exact ⟨⟨h1, h2, h3⟩, rfl⟩

/-- A result that no raw count makes usable. -/
theorem Result.usable_none {r : Result} {maxAge : Nat} (h : ∀ d, ¬r.usableWith maxAge d) : r.usable maxAge = none := by
  cases e : r.usable maxAge with
  | none => rfl
  | some d => exact absurd ((Result.usable_iff r maxAge d).1 e) (h d)

/-- With the CE IDLE the pick considers the first eligible entry (R48). -/
theorem State.picked_some {s : State} {h : Slot} (hc : s.ce.conv = none) (hf : s.firstEligible h) :
    s.picked = some h := by
  obtain ⟨he, front, back, hq, hn⟩ := hf
  have hfront : front.find? s.eligible = none := by
    rw [List.find?_eq_none]
    intro i hi hc
    exact hn i hi ((s.eligible_iff i).1 hc)
  simp [State.picked, hc, hq, List.find?_append, hfront, (s.eligible_iff h).2 he]

/-- Without an IDLE CE and an eligible entry there is nothing to consider (R48). -/
theorem State.picked_none {s : State} (h : s.ce.conv ≠ none ∨ ∀ i ∈ s.ms.queue, ¬s.mayStart i) : s.picked = none := by
  unfold State.picked
  rcases h with h | h
  · simp [Option.isSome_iff_ne_none.2 h]
  · split
    · rfl
    · rw [List.find?_eq_none]
      intro i hi hc
      exact h i hi ((s.eligible_iff i).1 hc)

/-! ## Starts -/

/-- Everything a start does (R49). -/
theorem State.startChannel_eq (s : State) (i : Slot) (c : Channel) :
    s.startChannel i c = { s with
      ct := s.tableWith i { c with sched := { c.sched with refTried := false } }
      ms := s.queueOf (s.ms.queue.erase i)
      ce := startedEngine i c.defn
      csu := { s.csu with fastClock := decide (c.defn.method = .period) } } := by
  rw [State.startChannel, State.startEngine_eq]
  rfl

/-! ## What a pick leaves alone -/

/-- A start changes only a record, the due queue, the engine and the fast clock. -/
theorem State.startChannel_frame (s : State) (i : Slot) (c : Channel) :
    ∃ ct q ce fast, s.startChannel i c = { s with
      ct := { s.ct with slots := ct }, ms := s.queueOf q, ce := ce, csu := { s.csu with fastClock := fast } } :=
  ⟨_, _, _, _, s.startChannel_eq i c⟩

/-- A pick changes only records, the due queue, the engine and the fast clock. -/
theorem State.pick_frame (s : State) :
    ∃ slots q ce fast, s.pick = { s with
      ct := { s.ct with slots := slots }, ms := s.queueOf q, ce := ce, csu := { s.csu with fastClock := fast } } := by
  have none' : ∃ slots q ce fast, s = { s with
      ct := { s.ct with slots := slots }, ms := s.queueOf q, ce := ce, csu := { s.csu with fastClock := fast } } :=
    ⟨s.ct.slots, s.ms.queue, s.ce, s.csu.fastClock, rfl⟩
  unfold State.pick
  split
  · exact none'
  · split
    · exact none'
    · rename_i h _ _ c _
      unfold State.consider
      split
      · exact State.startChannel_frame s h c
      · split
        · exact State.startChannel_frame s h c
        · split
          · exact State.startChannel_frame s h c
          · unfold State.chain
            obtain ⟨ct, q, ce, fast, e⟩ :=
              State.startChannel_frame ((s.onSched h fun c => { c with refTried := true }).toHead h) ‹RefLink›.slot ‹_›
            rw [e]
            unfold State.onSched State.onRecord
            split
            · exact ⟨ct, q, ce, fast, rfl⟩
            · exact ⟨ct, q, ce, fast, rfl⟩

@[simp] theorem State.pick_tags (s : State) : s.pick.ct.tags = s.ct.tags := by
  obtain ⟨_, _, _, _, e⟩ := s.pick_frame; rw [e]
@[simp] theorem State.pick_pins (s : State) : s.pick.ct.pins = s.ct.pins := by
  obtain ⟨_, _, _, _, e⟩ := s.pick_frame; rw [e]
@[simp] theorem State.pick_mode (s : State) : s.pick.ms.mode = s.ms.mode := by
  obtain ⟨_, _, _, _, e⟩ := s.pick_frame; rw [e]; rfl
@[simp] theorem State.pick_ft (s : State) : s.pick.ft = s.ft := by
  obtain ⟨_, _, _, _, e⟩ := s.pick_frame; rw [e]
@[simp] theorem State.pick_re (s : State) : s.pick.re = s.re := by
  obtain ⟨_, _, _, _, e⟩ := s.pick_frame; rw [e]
@[simp] theorem State.pick_gs (s : State) : s.pick.gs = s.gs := by
  obtain ⟨_, _, _, _, e⟩ := s.pick_frame; rw [e]
@[simp] theorem State.pick_au (s : State) : s.pick.au = s.au := by
  obtain ⟨_, _, _, _, e⟩ := s.pick_frame; rw [e]
@[simp] theorem State.pick_hp (s : State) : s.pick.hp = s.hp := by
  obtain ⟨_, _, _, _, e⟩ := s.pick_frame; rw [e]
@[simp] theorem State.pick_held (s : State) : s.pick.csu.held = s.csu.held := by
  obtain ⟨_, _, _, _, e⟩ := s.pick_frame; rw [e]
@[simp] theorem State.pick_early (s : State) : s.pick.csu.early = s.csu.early := by
  obtain ⟨_, _, _, _, e⟩ := s.pick_frame; rw [e]
@[simp] theorem State.pick_pending (s : State) : s.pick.pending = s.pending := by
  obtain ⟨_, _, _, _, e⟩ := s.pick_frame; rw [e]
@[simp] theorem State.pick_freeIx (s : State) : s.pick.freeIx = s.freeIx := by
  obtain ⟨_, _, _, _, e⟩ := s.pick_frame; rw [e]

/-- A record up to its ref-tried mark, which is all that a pick writes of a record (R49, R51). -/
def Channel.unmarked (c : Channel) : Channel := { c with sched := { c.sched with refTried := false } }

/-- A start keeps every record but for ref-tried marks. -/
theorem State.startChannel_unmarked {s : State} {i : Slot} {c : Channel}
    (h : (s.channel i).map Channel.unmarked = some c.unmarked) (j : Slot) :
    ((s.startChannel i c).channel j).map Channel.unmarked = (s.channel j).map Channel.unmarked := by
  have e : (s.startChannel i c).channel j
      = (s.putChannel i { c with sched := { c.sched with refTried := false } }).channel j := by
    rw [State.startChannel_eq]; rfl
  rw [e, State.putChannel_channel]
  by_cases hj : j = i
  · subst hj; simp [h]; rfl
  · simp [hj]

/-- A pick keeps every record but for ref-tried marks, and every generation. -/
theorem State.pick_unmarked (s : State) (j : Slot) :
    (s.pick.channel j).map Channel.unmarked = (s.channel j).map Channel.unmarked := by
  unfold State.pick
  split
  · rfl
  · split
    · rfl
    · rename_i h _ _ c hc
      have hc' : (s.channel h).map Channel.unmarked = some c.unmarked := by rw [hc]; rfl
      unfold State.consider
      split
      · exact State.startChannel_unmarked hc' j
      · split
        · exact State.startChannel_unmarked hc' j
        · split
          · exact State.startChannel_unmarked hc' j
          · rename_i l _ _ r hr _
            have e (k : Slot) : (((s.onSched h fun c => { c with refTried := true }).toHead h).channel k).map
                Channel.unmarked = (s.channel k).map Channel.unmarked := by
              change ((s.onSched h fun c => { c with refTried := true }).channel k).map _ = _
              unfold State.onSched State.onRecord
              simp only [hc, State.putChannel_channel]
              by_cases hk : k = h
              · subst hk; simp [hc]; rfl
              · simp [hk]
            unfold State.chain
            rw [State.startChannel_unmarked _ j, e]
            rw [e, hr]; rfl

end Sys2Proof.Machine
end

