-- ==== Sys2Proof/Laws/Arithmetic.lean ====
section
/-! SUPPORT. The arithmetic of ratios, curves and numbers: what each rounding, the digit string and a curve answer, and
what an increasing list of breakpoints gives. -/

namespace Sys2Proof.Machine

/-! ## Rounding -/

/-- `roundUp` is the nearest whole number, a tie going upward (R69, R125). -/
theorem roundUp_bounds (num : Int) {den : Nat} (h : 0 < den) :
    2 * den * roundUp num den ≤ 2 * num + den ∧ 2 * num + den < 2 * den * (roundUp num den + 1) := by
  unfold roundUp
  have h1 := Int.mul_ediv_self_le (x := 2 * num + den) (k := 2 * (den : Int)) (by omega)
  have h2 := Int.lt_mul_ediv_self_add (x := 2 * num + den) (k := 2 * (den : Int)) (by omega)
  constructor <;> linarith

/-- `roundAway` is the nearest whole number, a tie going away from zero (R71, R123). -/
theorem roundAway_nearest (num : Int) {den : Nat} (hd : 0 < den) : nearestAway num den (roundAway num den) := by
  unfold nearestAway roundAway
  rw [Int.natAbs_natCast]
  split
  · obtain ⟨n, rfl⟩ := Int.eq_ofNat_of_zero_le ‹0 ≤ num›
    simp only [Int.toNat_natCast]
    have hx := Nat.div_add_mod (2 * n + den) (2 * den)
    have hy := Nat.mod_lt (2 * n + den) (show 0 < 2 * den by omega)
    generalize (2 * n + den) / (2 * den) = q at *
    have e : 2 * den * q = 2 * (q * den) := by ring
    rw [e] at hx
    have e2 : (q : Int) * den = ((q * den : Nat) : Int) := by push_cast; ring
    rw [e2]
    generalize q * den = t at *
    omega
  · obtain ⟨n, rfl, hn⟩ : ∃ n : Nat, num = -n ∧ 0 < n := ⟨(-num).toNat, by omega, by omega⟩
    simp only [neg_neg, Int.toNat_natCast]
    have hx := Nat.div_add_mod (2 * n + den) (2 * den)
    have hy := Nat.mod_lt (2 * n + den) (show 0 < 2 * den by omega)
    generalize (2 * n + den) / (2 * den) = q at *
    have e : 2 * den * q = 2 * (q * den) := by ring
    rw [e] at hx
    have e2 : -(q : Int) * den = -((q * den : Nat) : Int) := by push_cast; ring
    rw [e2]
    generalize q * den = t at *
    omega

/-! ## Digits -/

/-- The digits of a number below 10 ^ fuel spell it, without a leading zero (R123). -/
theorem digits_spell (fuel n : Nat) (h : n < 10 ^ fuel) (hf : 0 < fuel) :
    (digits fuel n).foldl (fun k x => k * 10 + x.val) 0 = n ∧ 1 ≤ (digits fuel n).length ∧
      (1 < (digits fuel n).length → (digits fuel n).head? ≠ some 0) := by
  induction fuel generalizing n with
  | zero => omega
  | succ f ih =>
    unfold digits
    split
    · exact ⟨by simp; omega, by simp, by simp⟩
    · have hf : 0 < f := by
        rcases f with _ | f
        · simp at h; omega
        · omega
      obtain ⟨a, b, c⟩ := ih (n / 10) (by rw [pow_succ] at h; omega) hf
      refine ⟨by rw [List.foldl_append, a]; simp; omega, by simp, fun _ => ?_⟩
      rw [List.head?_append]
      by_cases hl : 1 < (digits f (n / 10)).length
      · have := c hl
        cases hh : (digits f (n / 10)).head? <;> simp_all
      · obtain ⟨x, hx⟩ := List.length_eq_one_iff.1 (show (digits f (n / 10)).length = 1 by omega)
        rw [hx] at a ⊢
        simp at a ⊢
        intro hh; subst hh; simp at a; omega

/-- The digit string of a magnitude below 1,000,000 spells it, has at least `d + 1` digits, and has a leading zero only
where it needs one to have them (R123, step 2). -/
theorem digitString_spell {n : Nat} (d : Nat) (h : n < 1000000) :
    (digitString n d).foldl (fun k x => k * 10 + x.val) 0 = n ∧ d + 1 ≤ (digitString n d).length ∧
      (d + 1 < (digitString n d).length → (digitString n d).head? ≠ some 0) := by
  obtain ⟨a, b, c⟩ := digits_spell 6 n (by simpa using h) (by omega)
  have z : ∀ k, (List.replicate k (0 : Fin 10)).foldl (fun k x => k * 10 + x.val) 0 = 0 := by
    intro k
    induction k with
    | zero => rfl
    | succ k ih => simpa [List.replicate_succ] using ih
  unfold digitString
  refine ⟨by simp only [List.foldl_append]; rw [z, a], by simp; omega, fun hl => ?_⟩
  simp at hl
  have e : d + 1 - (digits 6 n).length = 0 := by omega
  simpa [e] using c (by omega)

/-! ## Increasing breakpoints and curves -/

/-- A list of increasing breakpoints keeps increasing without its first (R70). -/
theorem increasing_tail {p : Breakpoint} {l : List Breakpoint} (h : increasing (p :: l) = true) : increasing l = true := by
  cases l with
  | nil => rfl
  | cons q r => simp [increasing] at h; exact h.2

/-- The first of a list of increasing breakpoints lies below every other (R70). -/
theorem increasing_lt {p a : Breakpoint} {front back : List Breakpoint}
    (h : increasing (p :: (front ++ a :: back)) = true) : p.x < a.x := by
  induction front generalizing p with
  | nil => cases back <;> simp [increasing] at h <;> omega
  | cons q r ih => simp [increasing] at h; have := ih h.2; omega

/-- A breakpoint met exactly answers its y (R71). -/
theorem applyFrom_at {rest : List Breakpoint} {a p : Breakpoint} (hi : increasing (a :: rest) = true)
    (h : p ∈ a :: rest) : applyFrom a rest p.x = (.good, p.y) := by
  induction rest generalizing a with
  | nil => simp at h; subst h; simp [applyFrom]
  | cons b more ih =>
    rcases List.mem_cons.1 h with rfl | h
    · simp [applyFrom]
    · obtain ⟨f, k, hs⟩ := List.append_of_mem h
      have h0 : a.x < p.x := by rw [hs] at hi; exact increasing_lt hi
      have h1 : ¬p.x = a.x := by omega
      have h2 : ¬p.x < b.x := by
        rcases List.mem_cons.1 h with rfl | h'
        · omega
        · obtain ⟨f, k, hs⟩ := List.append_of_mem h'
          have ht := increasing_tail hi
          rw [hs] at ht
          have := increasing_lt ht
          omega
      simp [applyFrom, h1, h2]
      exact ih (increasing_tail hi) h

/-- An input between two neighbouring breakpoints answers their interpolation (R71). -/
theorem applyFrom_between {rest : List Breakpoint} {c a b : Breakpoint} {x : Nat} {front back : List Breakpoint}
    (hi : increasing (c :: rest) = true) (h : c :: rest = front ++ a :: b :: back) (h1 : a.x < x) (h2 : x < b.x) :
    applyFrom c rest x = (.good, interpolate a b x) := by
  induction rest generalizing c front with
  | nil => cases front <;> simp at h
  | cons d more ih =>
    cases front with
    | nil =>
      simp at h
      obtain ⟨rfl, rfl, rfl⟩ := h
      have : ¬x = c.x := by omega
      simp [applyFrom, this, h2]
    | cons e fr =>
      simp at h
      obtain ⟨rfl, h⟩ := h
      have hc : c.x < a.x := by rw [h] at hi; exact increasing_lt hi
      have hd : d.x ≤ a.x := by
        cases fr with
        | nil => simp at h; rw [h.1]
        | cons z fr =>
          simp at h
          obtain ⟨rfl, h⟩ := h
          have ht := increasing_tail hi
          rw [h] at ht
          exact (increasing_lt ht).le
      have e1 : ¬x = c.x := by omega
      have e2 : ¬x < d.x := by omega
      simp [applyFrom, e1, e2]
      exact ih (increasing_tail hi) h

end Sys2Proof.Machine
end

