-- ==== Sys2Proof/Laws/Checks.lean ====
section
/-! SUPPORT. The checks and searches of the requests: the first FREE slot, the tag search, the reference check, referrers,
duplicate addresses, and the check of a frame. -/

namespace Sys2Proof.Machine

/-- The first FREE channel slot is the one the search answers (R10). -/
theorem State.freeSlot_eq {s : State} {i : Slot} (h : s.firstFree i) : s.freeSlot = some i := by
  unfold State.freeSlot
  rw [List.find?_eq_some_iff_getElem]
  refine ⟨by simp [h.1], i, by simp, by simp, fun j hj => ?_⟩
  have := h.2 ⟨j, by omega⟩ hj
  simp [Option.isSome_iff_ne_none] at *
  exact this

/-- The first FREE field slot is the one the search answers (R104). -/
theorem State.freeField_eq {s : State} {f : FieldIx} (h : s.firstFreeField f) : s.freeField = some f := by
  unfold State.freeField
  rw [List.find?_eq_some_iff_getElem]
  refine ⟨by simp [h.1], f, by simp, by simp, fun j hj => ?_⟩
  have := h.2 ⟨j, by omega⟩ hj
  simp [Option.isSome_iff_ne_none] at *
  exact this

/-- A tag no entry has is not found (R5). -/
theorem State.tagSlot_none {s : State} {t : Tag} (h : ∀ j : Slot, s.ct.tags[j] ≠ some t) : s.tagSlot t = none := by
  unfold State.tagSlot
  rw [List.find?_eq_none]
  intro j _
  simpa using h j

/-- A tag an entry has is found, at an entry that has it (R5). -/
theorem State.tagSlot_some {s : State} {t : Tag} {j : Slot} (h : s.ct.tags[j] = some t) :
    ∃ k, s.tagSlot t = some k ∧ s.ct.tags[k] = some t := by
  cases hk : s.tagSlot t with
  | none =>
    unfold State.tagSlot at hk
    rw [List.find?_eq_none] at hk
    have := hk j (by simp)
    simp at this h
    contradiction
  | some k => exact ⟨k, rfl, by simpa using List.find?_some hk⟩

/-- A sound reference passes the reference check (R7). -/
theorem State.refCheck_none {s : State} {target : Option Slot} {q : DefReq} (h : s.refSound target q) :
    s.refCheck target q = none := by
  unfold State.refCheck
  cases hr : q.ref with
  | none => rfl
  | some r =>
    obtain ⟨c, hc, h1, h2, h3, h4⟩ := h r (by simp [hr])
    have hc : s.accept r.slot r.gen = some c := hc
    simp [hc, h1, h2, h3, h4]

/-- A slot that no reference names has no referrer (R8). -/
theorem State.hasReferrer_false {s : State} {i : Slot} (h : s.noReferrer i) : s.hasReferrer i = false := by
  unfold State.hasReferrer
  simp only [List.any_eq_false, Option.any_eq_true, not_exists, not_and]
  intro j _ d hd l hl
  simp
  exact h j d (by simpa using hd) l (by simpa using hl)

/-- A list without repeats has no duplicate entry (R103). -/
theorem firstDuplicate_none {l : List SegAddr} (h : l.Nodup) : firstDuplicate l = none := by
  unfold firstDuplicate
  rw [List.find?_eq_none]
  intro k hk
  simp at hk ⊢
  intro hc
  rw [List.mem_take_iff_getElem] at hc
  obtain ⟨j, hj, e⟩ := hc
  rw [List.getElem?_eq_getElem hk] at e
  simp at e
  have := (List.Nodup.getElem_inj_iff h).1 e
  omega

/-- A render gives every segment of its field one state (R116). -/
theorem segmentStates_length (d : Field) (v : SourceView) : (segmentStates d v).length = d.segs.length := by
  unfold segmentStates
  split <;> simp

end Sys2Proof.Machine

namespace Sys2Proof

/-- A frame of good form is judged good, whatever follows it (R166). -/
theorem judgeFrame_good (code : Byte) (p extra : List Byte) (h : p.length ≤ 61) :
    judgeFrame (BitVec.ofNat 8 (p.length + 1) :: code :: p ++
      [crc8 (BitVec.ofNat 8 (p.length + 1) :: code :: p)] ++ extra) = some (code, p) := by
  have : (BitVec.ofNat 8 (p.length + 1)).toNat = p.length + 1 := by simp; omega
  simp only [judgeFrame, List.cons_append, this]
  rw [if_pos ⟨by omega, by omega⟩]
  simp

end Sys2Proof
end

