-- ==== Sys2Proof/Laws/Port.lean ====
section
/-! SUPPORT. The shared operations of the host port: what a COMMAND frame does in each port state, what an answer leaves, and
what the handle checks come to. -/

namespace Sys2Proof.Machine

/-- The port is not deaf when it judges the transaction. -/
theorem State.deaf_eq {s : State} (h : s.judges) : s.deaf = false := by
  simp [State.deaf, h.1, h.2]

/-- The port is deaf while a reset is held and in a transaction in which one fell. -/
theorem State.deaf_true {s : State} (h : s.csu.held = true ∨ s.hp.select = .dead) : s.deaf = true := by
  rcases h with h | h <;> simp [State.deaf, h]

/-- The end of a transaction that is judged. -/
theorem State.shiftOut_judged {s : State} (h : s.judges) (more : List Byte) :
    s.shiftOut more = { s with hp := s.shifted s.shownStatus more } := by
  simp [State.shiftOut, State.deaf_eq h, State.shifted, State.setHp]

/-- The end of a transaction that is not judged. -/
theorem State.shiftOut_deaf {s : State} (h : s.csu.held = true ∨ s.hp.select = .dead) (more : List Byte) :
    s.shiftOut more = { s with hp := { s.hp with select := .high, sdo := s.sdoSoFar } } := by
  simp [State.shiftOut, State.deaf_true h, State.setHp]

/-- The state on which a taken frame's request runs: the transaction over with its status byte shifted out, the slot empty
and the overrun flag cleared. -/
def State.entered (s : State) : State :=
  { s with hp := { s.hp with response := none, overrun := false, select := .high, sdo := [s.shownStatus] } }

/-- A frame that the port takes runs its request on the state entered. -/
theorem commandFrame_taken {act : State → State} {s : State} (h : s.takes) :
    commandFrame act s = act s.entered := by
  obtain ⟨hj, hp | hp⟩ := h <;>
    simp only [commandFrame, State.deaf_eq hj, hp, State.shiftOut_judged hj] <;> rfl

/-- A frame that ends in BUSY or INIT is dropped. -/
theorem commandFrame_dropped {act : State → State} {s : State} (h : s.drops) :
    commandFrame act s = { s with hp := { s.shifted s.shownStatus [] with overrun := true } } := by
  obtain ⟨hj, hp | hp⟩ := h <;>
    simp only [commandFrame, State.deaf_eq hj, hp, State.shiftOut_judged hj] <;> rfl

/-- A frame of which no byte is judged sends FFh after what was out already, and does nothing else. -/
theorem commandFrame_deaf {act : State → State} {s : State} (h : s.csu.held = true ∨ s.hp.select = .dead) :
    commandFrame act s = { s with hp := { s.hp with select := .high, sdo := s.sdoSoFar } } := by
  simp only [commandFrame, State.deaf_true h, if_true, State.shiftOut_deaf h]

/-- A request of the right length runs. -/
theorem hostRequest_taken {ok : Bool} {act : State → State} {s : State} (h : s.takes) (hl : ok = true) :
    hostRequest ok act s = act s.entered := by
  simp [hostRequest, commandFrame_taken h, hl]

/-- A request of the wrong length is answered BAD_LENGTH. -/
theorem hostRequest_badLength {ok : Bool} {act : State → State} {s : State} (h : s.takes) (hl : ok = false) :
    hostRequest ok act s = { s with hp := s.answered .badLength [] } := by
  simp [hostRequest, commandFrame_taken h, hl, State.respond, State.setHp, State.answered, State.entered]

/-- What an answer to the request of a taken frame leaves. -/
theorem State.entered_respond (s : State) (code : ResultCode) (payload : List Byte) :
    s.entered.respond code payload = { s with hp := s.answered code payload } := rfl

/-- What a response leaves of the state. -/
theorem State.respond_eq (s : State) (code : ResultCode) (payload : List Byte) :
    s.respond code payload = { s with hp := s.ended code payload } := rfl

/-- A host request that names a live channel by an accepted handle runs on it. -/
theorem onChannel_accepted {ok : Bool} {b : Byte} {act : Slot → Channel → State → State} {s : State} {i : Slot}
    {g : Fin 16} {c : Channel} (hb : chanHandle b = some (i, g)) (hok : ok = true) (hc : s.accept i g = some c) :
    onChannel ok b act s = act i c s := by
  simp [onChannel, hb, hok, hc]

/-- A host request that names a channel by a handle that is not accepted is refused STALE_HANDLE. -/
theorem onChannel_stale {ok : Bool} {b : Byte} {act : Slot → Channel → State → State} {s : State} {i : Slot}
    {g : Fin 16} (hb : chanHandle b = some (i, g)) (hok : ok = true) (hc : s.accept i g = none) :
    onChannel ok b act s = s.respond .staleHandle [] := by
  simp [onChannel, hb, hok, hc]

/-- A host request that names a channel with a field handle byte is refused BAD_PARAMETER. -/
theorem onChannel_field {ok : Bool} {b : Byte} {act : Slot → Channel → State → State} {s : State}
    (hb : b.msb = true) : onChannel ok b act s = s.respond .badParameter [] := by
  simp [onChannel, chanHandle, hb]

/-- A host request that names a bound field by an accepted handle runs on it. -/
theorem onField_accepted {ok : Bool} {b : Byte} {act : FieldIx → Field → State → State} {s : State} {f : FieldIx}
    {g : Fin 4} {d : Field} (hb : fieldHandle b = some (f, g)) (hok : ok = true) (hd : s.acceptField f g = some d) :
    onField ok b act s = act f d s := by
  simp [onField, hb, hok, hd]

/-- A host request that names a field by a handle that is not accepted is refused STALE_HANDLE. -/
theorem onField_stale {ok : Bool} {b : Byte} {act : FieldIx → Field → State → State} {s : State} {f : FieldIx}
    {g : Fin 4} (hb : fieldHandle b = some (f, g)) (hok : ok = true) (hd : s.acceptField f g = none) :
    onField ok b act s = s.respond .staleHandle [] := by
  simp [onField, hb, hok, hd]

/-- A host request that names a field with a channel handle byte or a slot code above 23 is refused BAD_PARAMETER. -/
theorem onField_channel {ok : Bool} {b : Byte} {act : FieldIx → Field → State → State} {s : State}
    (hb : b.msb = false ∨ 24 ≤ b.toNat / 4 % 32) : onField ok b act s = s.respond .badParameter [] := by
  rcases hb with hb | hb
  · simp [onField, fieldHandle, hb]
  · cases hm : b.msb <;> simp [onField, fieldHandle, hm, Nat.not_lt.2 hb]

/-- An accepted handle's channel is the live channel of its slot, at the slot's generation. -/
theorem State.accept_eq_some {s : State} {i : Slot} {g : Fin 16} {c : Channel} :
    s.accept i g = some c ↔ s.ct.slots[i].gen = g ∧ s.channel i = some c := by
  simp [State.accept]

/-- An accepted handle's field is the bound field of its slot, at the slot's generation. -/
theorem State.acceptField_eq_some {s : State} {f : FieldIx} {g : Fin 4} {d : Field} :
    s.acceptField f g = some d ↔ s.ft.slots[f].gen = g ∧ s.field f = some d := by
  simp [State.acceptField]

end Sys2Proof.Machine
end

