-- ==== Sys2Proof/Laws/Timers.lean ====
section
/-! SUPPORT. The base tick: what its tick at one owner does and what it leaves alone, and how the ticks of all owners come
together. -/

namespace Sys2Proof.Machine

/-! ## Single owners -/

/-- The join of a channel neither queued nor converting, and of any other (R46). -/
theorem State.joinTail_eq (s : State) (i : Slot) :
    s.joinTail i = { s with
      ms := s.queueOf (if s.queued i = true ∨ s.converting i = true then s.ms.queue else s.ms.queue ++ [i]) } := by
  unfold State.joinTail State.queueOf
  by_cases h : s.queued i = true ∨ s.converting i = true
  · have : (s.queued i || s.converting i) = true := by simpa using h
    simp [this, h]
  · have : (s.queued i || s.converting i) = false := by simpa using h
    simp only [this, if_neg h]
    rfl

/-- Everything an interval expiry does before its pick, and then the pick (R43, R44). -/
theorem State.expireInterval_eq (s : State) (i : Slot) (c : Channel) :
    s.expireInterval i c = ({ s with
      ct := s.tableWith i { c with sched := { c.sched with
        countdown := some c.defn.interval, late := c.sched.late || (s.queued i || s.converting i) } }
      ms := s.queueOf (if s.queued i = true ∨ s.converting i = true then s.ms.queue else s.ms.queue ++ [i]) }
        : State).pick := by
  simp only [State.expireInterval, State.joinTail_eq]
  rfl

/-- The record of a channel after its interval expiry: the countdown reloaded, and late when it was queued or converting
(R43, R44). -/
theorem State.expireInterval_unmarked (s : State) (i : Slot) (c : Channel) :
    ((s.expireInterval i c).channel i).map Channel.unmarked = some (({ c with sched := { c.sched with
      countdown := some c.defn.interval, late := c.sched.late || (s.queued i || s.converting i) } } :
        Channel).unmarked) := by
  rw [State.expireInterval_eq, State.pick_unmarked]
  change ((s.putChannel i _).channel i).map _ = _
  rw [State.putChannel_channel, if_pos rfl]
  rfl

/-- The raise of QUALITY alone. -/
theorem State.pairsRaised_quality (s : State) (i : Slot) :
    s.au.raiseIf i .quality true = s.pairsRaised i false false true false := by
  simpa [Attention.raiseIf] using s.pairsRaised_eq i false false true false

/-- Everything a stale-limit expiry does (R81, R83). -/
theorem State.tickAge_stale {s : State} {i : Slot} {c : Channel} (hc : s.channel i = some c)
    (hs : c.staleNext = true) :
    s.tickAge i = { s with
      ct := s.tableWith i { c with
        result := { c.result with age := c.result.age.map olderBy1, freshness := some .stale } }
      au := s.pairsRaised i false false true false
      re := s.dirtied (s.fieldsOf i) } := by
  simp only [State.tickAge, hc, hs, if_true, State.markFields_eq, State.putResult]
  have e : ((s.putChannel i { c with result :=
      { c.result with age := c.result.age.map olderBy1, freshness := some .stale } }).setAu
      ((s.au.raiseIf i .limit false).raiseIf i .quality true)).fieldsOf i = s.fieldsOf i :=
    State.fieldsOf_congr rfl (s.putChannel_gen i i _)
  have a : (s.au.raiseIf i .limit false).raiseIf i .quality true = s.pairsRaised i false false true false :=
    s.pairsRaised_quality i
  simp only [ne_eq, not_true_eq_false, decide_false] at *
  rw [e, a]
  rfl

/-- A base tick at an age that brings about no expiry (R81). -/
theorem State.tickAge_fresh {s : State} {i : Slot} {c : Channel} (hc : s.channel i = some c)
    (hs : c.staleNext = false) :
    s.tickAge i = { s with
      ct := s.tableWith i { c with result := { c.result with age := c.result.age.map olderBy1 } } } := by
  simp [State.tickAge, hc, hs]
  rfl

/-! ## Records -/

/-- A record without its result and its ref-tried mark: what a tick at another owner than its interval timer leaves. -/
def Channel.frozen (c : Channel) : Channel := { c.unmarked with result := Result.cleared 0 }

/-- The frozen record is the same when the records are the same but for ref-tried marks. -/
theorem Channel.frozen_of_unmarked {a b : Option Channel} (h : a.map Channel.unmarked = b.map Channel.unmarked) :
    a.map Channel.frozen = b.map Channel.frozen := by
  have e : Channel.frozen = (fun c => { c with result := Result.cleared 0 }) ∘ Channel.unmarked := rfl
  rw [e, ← Option.map_map, ← Option.map_map, h]

/-- The results are the same when the records are the same but for ref-tried marks. -/
theorem Channel.result_of_unmarked {a b : Option Channel} (h : a.map Channel.unmarked = b.map Channel.unmarked) :
    a.map Channel.result = b.map Channel.result := by
  have e : Channel.result = Channel.result ∘ Channel.unmarked := rfl
  rw [e, ← Option.map_map, ← Option.map_map, h]

/-- The record of another channel after an interval's tick. -/
theorem State.tickInterval_other {s : State} {i j : Slot} (h : j ≠ i) :
    ((s.tickInterval i).channel j).map Channel.unmarked = (s.channel j).map Channel.unmarked := by
  unfold State.tickInterval
  split
  · rfl
  · split
    · split
      · rfl
      · split
        · rw [State.expireInterval_eq, State.pick_unmarked]
          change ((s.putChannel i _).channel j).map _ = _
          rw [State.putChannel_channel, if_neg h]
        · rw [State.putChannel_channel, if_neg h]
    · rfl

/-- The result of a channel after its interval's tick. -/
theorem State.tickInterval_result (s : State) (i j : Slot) :
    ((s.tickInterval i).channel j).map Channel.result = (s.channel j).map Channel.result := by
  by_cases h : j = i
  · subst h
    unfold State.tickInterval
    split
    · rfl
    · rename_i c hc
      split
      · split
        · rfl
        · split
          · rw [hc]
            exact Channel.result_of_unmarked (b := some { c with sched := { c.sched with
              countdown := some c.defn.interval, late := c.sched.late || (s.queued j || s.converting j) } })
              (s.expireInterval_unmarked j c)
          · rw [State.putChannel_channel, if_pos rfl, hc]; rfl
      · rfl
  · exact Channel.result_of_unmarked (State.tickInterval_other h)

/-- The records after an age's tick: that one has a new result, and no other changes. -/
theorem State.tickAge_channel (s : State) (i j : Slot) :
    (s.tickAge i).channel j = if j = i then (s.channel i).map (fun c => { c with result :=
      { c.result with age := c.result.age.map olderBy1
                      freshness := if c.staleNext then some .stale else c.result.freshness } }) else s.channel j := by
  cases hc : s.channel i with
  | none =>
    simp only [State.tickAge, hc, Option.map_none]
    split
    · subst j; exact hc
    · rfl
  | some c =>
    cases hs : c.staleNext
    · rw [State.tickAge_fresh hc hs]
      change (s.putChannel i _).channel j = _
      rw [State.putChannel_channel]
      simp [hs]
    · rw [State.tickAge_stale hc hs]
      change (s.putChannel i _).channel j = _
      rw [State.putChannel_channel]
      simp [hs]

/-! ## What the tick at one owner leaves alone -/

/-- A tick at an interval timer changes only records, the due queue, the engine and the fast clock. -/
theorem State.tickInterval_frame (s : State) (i : Slot) :
    ∃ slots q ce fast, s.tickInterval i = { s with
      ct := { s.ct with slots := slots }, ms := s.queueOf q, ce := ce, csu := { s.csu with fastClock := fast } } := by
  unfold State.tickInterval
  split
  · exact ⟨s.ct.slots, s.ms.queue, s.ce, s.csu.fastClock, rfl⟩
  · split
    · split
      · exact ⟨s.ct.slots, s.ms.queue, s.ce, s.csu.fastClock, rfl⟩
      · split
        · rw [State.expireInterval_eq]
          obtain ⟨slots, q, ce, fast, e⟩ := State.pick_frame _
          rw [e]
          exact ⟨slots, q, ce, fast, rfl⟩
        · exact ⟨_, s.ms.queue, s.ce, s.csu.fastClock, rfl⟩
    · exact ⟨s.ct.slots, s.ms.queue, s.ce, s.csu.fastClock, rfl⟩

/-- A tick at an age changes only a record, the attention pairs of its channel and the render queue. -/
theorem State.tickAge_frame (s : State) (i : Slot) :
    ∃ slots pairs q, s.tickAge i = { s with
      ct := { s.ct with slots := slots }, au := { s.au with channels := pairs }, re := { s.re with queue := q } } := by
  cases hc : s.channel i with
  | none => exact ⟨s.ct.slots, s.au.channels, s.re.queue, by simp [State.tickAge, hc]⟩
  | some c =>
    cases hs : c.staleNext
    · rw [State.tickAge_fresh hc hs]; exact ⟨_, s.au.channels, s.re.queue, rfl⟩
    · rw [State.tickAge_stale hc hs]; exact ⟨_, _, _, rfl⟩

/-- A tick at a blink phase changes only that phase. -/
theorem State.tickBlink_frame (s : State) (rate : BlinkRate) :
    s.tickBlink rate = { s with gs := { s.gs with
      slow := if rate = .slow then s.gs.slow.tick 32 else s.gs.slow
      fast := if rate = .fast then s.gs.fast.tick 8 else s.gs.fast } } := by
  cases rate <;> rfl

/-- A tick at the hold timer changes only the hold and its attention pair. -/
theorem State.tickHold_frame (s : State) :
    ∃ hold mark, s.tickHold = { s with gs := { s.gs with hold := hold }, au := { s.au with holdExpired := mark } } := by
  unfold State.tickHold
  split
  · exact ⟨s.gs.hold, s.au.holdExpired, rfl⟩
  · split
    · exact ⟨none, .unseen, rfl⟩
    · exact ⟨_, s.au.holdExpired, rfl⟩

/-- A tick at a RESTART in progress, which it ends. -/
theorem State.tickRestart_eq (s : State) :
    s.tickRestart = if s.hp.waiting = some .restart then { s with
      hp := s.ended .ok [], au := { s.au with restarted := some { reason := .command, seen := false } } } else s := by
  unfold State.tickRestart
  split
  · rename_i h
    simp [State.endWait, State.setAu, h, Attention.raiseRestarted, State.respond, State.setHp, State.ended]
  · rfl

/-! ## All owners together -/

/-- No owner is reached twice. -/
theorem TickOwner.all_nodup : TickOwner.all.Nodup := by decide

/-- Every owner is reached. -/
theorem TickOwner.mem_all (o : TickOwner) : o ∈ TickOwner.all := by
  unfold TickOwner.all
  cases o with
  | interval i => simp
  | age i => simp
  | blink r => cases r <;> simp
  | hold => simp
  | restart => simp

/-- A part of the state that only one owner's tick changes: after the ticks at a list of owners without repeats it is as
before when that owner is not among them, and else as that owner's tick leaves it. -/
theorem State.tick_fold {α : Type} (part : State → α) (o : TickOwner)
    (h : ∀ (s : State) (p : TickOwner), p ≠ o → part (s.tick p) = part s) (l : List TickOwner) (hl : l.Nodup)
    (s : State) :
    (o ∉ l → part (l.foldl State.tick s) = part s) ∧
      (o ∈ l → ∃ t : State, part t = part s ∧ part (l.foldl State.tick s) = part (t.tick o)) := by
  induction l generalizing s with
  | nil => simp
  | cons p rest ih =>
    obtain ⟨hp, hr⟩ := List.nodup_cons.1 hl
    obtain ⟨a, b⟩ := ih hr (s.tick p)
    constructor
    · intro ho
      simp only [List.mem_cons, not_or] at ho
      rw [List.foldl_cons, a ho.2, h s p (Ne.symm ho.1)]
    · intro ho
      rw [List.foldl_cons]
      by_cases e : o = p
      · subst e
        exact ⟨s, rfl, a hp⟩
      · obtain ⟨t, h1, h2⟩ := b ((List.mem_cons.1 ho).resolve_left e)
        exact ⟨t, by rw [h1, h s p (Ne.symm e)], h2⟩

end Sys2Proof.Machine
end

