-- ==== Sys2Proof/Tests/Slice0.lean ====
section
/-! SUPPORT. Tests: ill-formed commands refused, frames and single steps against the manual's worked examples, and for every
statement with hypotheses a state and operands that meet them all. -/

namespace Sys2Proof.Tests

open Sys2Proof.Machine

set_option Elab.async false

/-! ## States to test on -/

/-- The part after its initialisation, with nothing read yet (12.1). -/
def boot : State :=
  { State.reset with
    hp := { State.reset.hp with port := .idle, powerOn := true }
    csu := { State.reset.csu with held := false, source := .internal } }

/-- The tag of two characters and two spaces. -/
def tag2 (a b : Byte) : Tag := { c0 := a, c1 := b, c2 := 0x20#8, c3 := 0x20#8 }

/-- A WINDOW definition on a pin with gate 64, settle 2, timeout 16, interval 64. -/
def windowDef (t : Tag) (pin : Pin) (ref : Option RefLink) : ChannelDef :=
  { tag := t, pin := pin, method := .window, countLen := 64, settle := 2, timeout := 16, interval := 64
    reference := ref, notify := false }

/-- A channel with that definition and an empty record. -/
def blank (d : ChannelDef) (st : LiveState) : Channel :=
  { state := st, defn := d, curve := none, limits := none, staleLimit := 0, result := Result.cleared 0
    sched := { Schedule.clear with countdown := if st = .active then some 64 else none } }

/-- RF, the reference of 12.2. -/
def rf : Channel := blank (windowDef (tag2 0x52#8 0x46#8) 0 none) .defined

/-- T1, the thermometer of 12.2 with RF in slot 0 as its reference. -/
def t1 : Channel := blank (windowDef (tag2 0x54#8 0x31#8) 1 (some { slot := 0, maxAge := 1280 })) .active

/-- The state with a channel in a slot. -/
def withChannel (s : State) (i : Slot) (c : Channel) : State :=
  let s1 := s.putChannel i c
  s1.setCt { s1.ct with tags := vput s1.ct.tags i (some c.defn.tag), pins := vput s1.ct.pins c.defn.pin (some i) }

/-- The state with a field in a slot. -/
def withField (s : State) (f : FieldIx) (d : Field) : State :=
  let s1 := s.putField f d
  s1.setFt { s1.ft with owners := setOwners s1.ft.owners d.segs (some f) }

/-- RF in slot 0 and T1 in slot 1. -/
def two : State := withChannel (withChannel boot 0 rf) 1 t1

/-- RF alone in slot 0. -/
def one : State := withChannel boot 0 rf

/-- T1 alone in slot 1, without its reference, SUSPENDED. -/
def lone (st : LiveState) : State := withChannel boot 0 (blank (windowDef (tag2 0x54#8 0x31#8) 1 none) st)

/-- A PATTERN field of two segments with source HOST. -/
def pat : Field :=
  { kind := .pattern, visible := true, blinkMode := .none, blinkRate := .slow, source := .host, hostData := none
    segs := [9, 42] }

/-- The pattern field in slot 0. -/
def drawn : State := withField boot 0 pat

/-- A conversion in flight of the channel in slot 0. -/
def conv (m : Method) (phase : ConversionPhase) : Conversion :=
  { phase := phase, channel := 0, method := m, countLen := 64, timeout := 16, settleRemaining := 1, opened := true
    periodsRemaining := 1, count := 16777215, edgeTimer := 512, gateTimer := none }

/-- RF converting. -/
def converting (v : Conversion) : State :=
  one.setCe { conv := some v, mux := some 0, oscillator := true }

/-- A waiting request in progress. -/
def waiting (s : State) (w : Waiting) : State :=
  s.setHp { s.hp with port := .busy, waiting := some w }

/-- The result code answered, when the command answered one. -/
def codeAfter (c : Instr) (s : State) : Option ResultCode :=
  match exec c s with
  | .next t => t.hp.response.map Response.code
  | _ => none

/-- A view of the next state. -/
def after {α : Type} (c : Instr) (s : State) (view : State → α) : Option α :=
  match exec c s with
  | .next t => some (view t)
  | _ => none

/-! ## Ill-formed commands -/

theorem test_wellFormed_payloadTooLong : wellFormed (.readStatus (List.replicate 62 0#8)) = false := by decide +kernel

theorem test_wellFormed_frameErrorThatIsNone : wellFormed (.frameError [1#8, 0x62#8, 0x3C#8]) = false := by decide +kernel

theorem test_wellFormed_unknownCodeThatIsListed : wellFormed (.unknownCommand 0x01#8 []) = false := by decide +kernel

theorem test_wellFormed_unknownPayloadTooLong :
    wellFormed (.unknownCommand 0x09#8 (List.replicate 62 0#8)) = false := by decide +kernel

/-! ## Frames (the worked check byte of chapter 10) -/

theorem test_frame_readStatus : frameOf 0x01#8 [] = [0x5C#8, 1#8, 0x01#8, 0x12#8] := by decide +kernel

theorem test_frame_releaseDisplay :
    transactionOf [0x5C#8, 1#8, 0x62#8, 0x3C#8] = .releaseDisplay [] := by decide +kernel

theorem test_frame_badCheck :
    transactionOf [0x5C#8, 1#8, 0x01#8, 0x13#8] = .frameError [1#8, 0x01#8, 0x13#8] := by decide +kernel

theorem test_frame_poll : transactionOf [] = .fetch .poll ∧ transactionOf [0x3A#8, 0xFF#8, 0x00#8] = .fetch (.reads 2) := by
  decide +kernel

theorem test_fetch_inInit : after (.fetch (.reads 3)) (boot.setHp { boot.hp with port := .init, powerOn := false })
    (fun t => t.hp.sdo) = some [0x40#8, 1#8, 0x17#8, 0x70#8] := by decide +kernel

/-- A power-on reset within a transaction: none of it is judged (R161, R180). -/
theorem test_reset_endsTransaction : after .powerOnReset (boot.setHp { boot.hp with select := .low 0x51#8 })
    (fun t => (t.hp.select, t.csu.held)) = some (.dead, true) := by decide +kernel

/-- R161: RSTN after 8 clock edges of a transaction leaves the status byte shifted out, and FFh follows. -/
theorem test_reset_keepsShiftedStatus :
    (match after (.fetch (.clocked 8)) (boot.setHp { boot.hp with select := .low 0x51#8 }) (fun t => t) with
      | some t => after .rstnAsserted t fun u => after .cancel u fun v => (v.hp.select, v.hp.sdo)
      | none => none) = some (some (.high, [0x51#8])) := by decide +kernel

/-- R165, R173, R180: CS falls under a held reset and every byte comes after the release: the frame is dropped with overrun,
behind a status byte that reports INIT. -/
theorem test_fallUnderReset_judged :
    (match exec (.fetch .falls) State.reset with
      | .next t => match exec (.resetRelease false) t with
        | .next u => after .commandDropped u fun v => (v.hp.overrun, v.hp.sdo)
        | _ => none
      | _ => none) = some (true, [0x40#8]) := by decide +kernel

/-- R161: three clock edges before the reset show the upper three bits of 51h, then ones. -/
theorem test_clocked_partByte : after (.fetch (.clocked 3)) (boot.setHp { boot.hp with select := .low 0x51#8 })
    (fun t => t.hp.sdo) = some [0x5F#8] := by decide +kernel

/-- A MEASURE_NOW with wait that is answered between the fall of CS and the end of the poll: the status byte is the one
formed at the fall, BUSY without ATTN (R161). -/
theorem test_statusByte_fixedAtFall :
    after (.fetch .poll) ((boot.setHp { boot.hp with port := .done, select := .low 0x52#8 }))
      (fun t => t.hp.sdo) = some [0x52#8] := by decide +kernel

/-! ## Arithmetic (the example of chapter 4) -/

/-- The curve of the thermometer. -/
def curve : Curve :=
  { decimals := 1
    points := [⟨2048, -100⟩, ⟨4096, 200⟩, ⟨6144, 450⟩, ⟨8192, 620⟩] }

theorem test_ratio : ratioOf 80000 63000 = 5201 ∧ ratioOf 1 8192 = 1 ∧ ratioOf 1024000 64000 = 65536 := by decide +kernel

theorem test_curve : curve.apply 5201 = (.good, 335) ∧ curve.apply 4608 = (.good, 263) ∧
    curve.apply 2304 = (.good, -63) ∧ curve.apply 1900 = (.under, -100) ∧ curve.apply 8193 = (.over, 620) := by decide +kernel

/-- The limits of the boiler of chapter 5. -/
def boiler : Limits := { low := some 150, high := some 300, hysteresis := 20 }

theorem test_limits : boiler.move .normal 301 = .high ∧ boiler.move .high 285 = .high ∧ boiler.move .high 280 = .normal ∧
    boiler.move .normal 140 = .low ∧ boiler.move .low 165 = .low := by decide +kernel

theorem test_numeric : (numberLayout 4 false 1 310 1).glyphs = [.blank, .digit 3, .digit 1, .digit 0] ∧
    (numberLayout 3 false 0 (-45) 0).glyphs = [.dash, .digit 4, .digit 5] ∧
    (numberLayout 3 false 0 1234 0).glyphs = [.blank, .letO, .letL] ∧ barCount 8 0 800 310 = 3 := by decide +kernel

/-! ## Single commands (chapters 1 to 10) -/

/-- A channel with a GOOD result one base tick from its stale limit. -/
def old639 : Channel :=
  { rf with
    staleLimit := 640
    result := { Result.cleared 1 with outcome := .good, raw := some 12000, freshness := some .fresh, age := some 639 } }


/-- The definition of RF as DEFINE_CHANNEL carries it. -/
def rfBytes : List Byte :=
  [0x52#8, 0x46#8, 0x20#8, 0x20#8, 0#8, 0#8, 0#8, 64#8, 2#8, 0#8, 16#8, 0#8, 64#8, 0xFF#8, 0#8, 0#8, 0#8]

/-- What RF's bytes define. -/
def rfReq : DefReq :=
  { tag := tag2 0x52#8 0x46#8, pin := 0, method := .window, countLen := 64, settle := 2, timeout := 16, interval := 64
    ref := none, notify := false }

theorem test_decodeDef : decodeDef rfBytes 0 = some rfReq := by decide +kernel

theorem test_define : after (.defineChannel rfBytes) boot (fun t => (t.channel 0, t.hp.response)) =
    some (some rf, some { code := .ok, payload := [0x00#8] }) := by decide +kernel

theorem test_define_duplicate : codeAfter (.defineChannel rfBytes) one = some .duplicateTag := by decide +kernel

theorem test_retire_inUse : codeAfter (.retireChannel [0x00#8]) two = some .inUse := by decide +kernel

theorem test_retire : after (.retireChannel [0x10#8]) two (fun t => (t.channel 1, t.ct.slots[(1 : Slot)].gen, t.ct.pins[(1 : Pin)])) =
    some (none, 1, none) := by decide +kernel

theorem test_pick_chains :
    after .pick (two.setQueue [1]) (fun t => (t.ms.queue, t.ce.conv.map Conversion.channel, t.ce.mux)) =
      some ([1], some 0, some 0) := by decide +kernel

theorem test_gate : after .gateExpiry (converting { conv .window .counting with count := 12000 })
    (fun t => ((t.channel 0).map fun c => (c.result.outcome, c.result.raw, c.result.seq), t.ce.mux)) =
      some (some (.good, some 12000, 1), none) := by decide +kernel

theorem test_overflow : after .sensorEdge (converting (conv .window .counting))
    (fun t => (t.channel 0).map fun c => (c.result.outcome, c.result.raw)) = some (some (.overflow, none)) := by decide +kernel

theorem test_closingEdge : after .sensorEdge (converting { conv .period .counting with count := 400 })
    (fun t => (t.channel 0).map fun c => c.result.raw) = some (some (some 400)) := by decide +kernel

/-- With the CE IDLE the pick that follows the join starts the channel at once (R48, R57). -/
theorem test_measureWait : after (.measureNow [0x00#8, 1#8]) one
    (fun t => (t.hp.port, t.ms.queue, t.ce.conv.map Conversion.channel, t.hp.response)) =
      some (.busy, [], some 0, none) := by decide +kernel

/-- T1, then its reference RF, whose intervals both expire in one base tick with the CE IDLE: the pick after T1's expiry
chains RF, and RF's own expiry then finds it converting and late (R44, R51). -/
theorem test_tick_chainsThenLate : after .baseTick
    ((withChannel (withChannel boot 3 { rf with state := .active, sched := { Schedule.clear with countdown := some 1 } }) 1
      { t1 with defn := { t1.defn with reference := some { slot := 3, maxAge := 1280 } }
                sched := { Schedule.clear with countdown := some 1 } }))
    (fun t => (t.ms.queue, t.ce.conv.map Conversion.channel, (t.channel 3).map fun c => c.sched.late)) =
      some ([1], some 3, some true) := by decide +kernel

/-- The 640 of chapter 5: the tick that brings the age to the stale limit makes the result STALE and raises QUALITY. -/
theorem test_tick_stale : after .baseTick (withChannel boot 0 old639)
    (fun t => ((t.channel 0).map fun c => (c.result.age, c.result.freshness), t.au.channels[(0 : Slot)].quality)) =
      some (some (some 640, some .stale), .unseen) := by decide +kernel

/-- Two PERIOD conversions back to back: the fast clock runs on (R179). -/
theorem test_fastClock_keepsRunning : after .edgeTimerExpiry
    (((withChannel (withChannel boot 0 { rf with defn := { rf.defn with method := .period } }) 1
        { t1 with defn := { t1.defn with method := .period, reference := none } }).setQueue [1]).setCe
      { conv := some (conv .period .counting), mux := some 0, oscillator := true })
    (fun t => (t.csu.fastClock, t.ce.conv.map Conversion.channel)) = some (true, some 1) := by decide +kernel

theorem test_dropped : after .commandDropped (waiting one (.measureNow 0)) (fun t => (t.hp.port, t.hp.overrun)) =
    some (.busy, true) := by decide +kernel

theorem test_render : after .render ((withField boot 0 { pat with hostData := some (.pattern [true, false]) }).markDirty 0)
    (fun t => (t.re.plane[(9 : SegAddr)], t.re.plane[(42 : SegAddr)], t.re.changed, t.re.queue)) =
      some (.on, .off, true, []) := by decide +kernel

theorem test_setGlass_conflict :
    (after (.setGlass [1#8, 0#8, 2#8, 2#8, 1#8]) (withField boot 0 { pat with segs := [99] }) fun t => t.hp.response) =
      some (some { code := .geometryConflict, payload := [0xC0#8, 0x80#8] }) := by decide +kernel

theorem test_restarted : after .initialisationEnd (boot.setHp { boot.hp with port := .init, powerOn := false })
    (fun t => (t.hp.port, t.hp.powerOn, t.attnLow)) = some (.idle, true, true) := by decide +kernel

theorem test_status_afterPowerOn : statusByte (boot.setAu (boot.au.raiseRestarted .powerOn)) = 0x55#8 := by decide +kernel

/-! ## Witnesses: states and operands that meet every hypothesis of a statement -/

theorem witness_FrameRoundTrip :
    (wellFormed (.readChannel [0x10#8]) = true ∧ (transactionFor (.readChannel [0x10#8])).isSome = true) ∧
    (wellFormed (.unknownCommand 0x09#8 (List.replicate 61 0#8)) = true ∧
      (transactionFor (.unknownCommand 0x09#8 (List.replicate 61 0#8))).isSome = true) ∧
    wellFormed (.frameError []) = true ∧ (transactionFor (.fetch (.reads 3))).isSome = true ∧
    (transactionFor (.fetch .poll)).isSome = true ∧ (0x00#8 : Byte) ≠ 0x5C#8 := by decide +kernel

theorem witness_StepTakesFront : (boot.setPending [.pick, .cancel]).pending = .pick :: [.cancel] := by decide +kernel

theorem witness_StepOnEmptyQueue :
    (State.reset.pending = [] ∧ State.reset.csu.held = true) ∧
    (boot.pending = [] ∧ boot.csu.held = false ∧ boot.dueEvents = []) ∧
    ((one.setQueue [0]).pending = [] ∧ (one.setQueue [0]).csu.held = false ∧
      (one.setQueue [0]).dueEvents.head? = some .pick) := by decide +kernel

theorem witness_FramesNotTaken :
    (isFrame .commandDropped = true ∧ isFrame (.readStatus []) = true ∧ isFrame (.frameError []) = true) ∧
    (waiting one (.measureNow 0)).drops ∧ (boot.setHp { boot.hp with port := .init }).drops ∧
    (isFrame (.setCurve [0#8]) = true ∧ State.reset.csu.held = true) ∧
    ((boot.setHp { boot.hp with select := .dead }).csu.held = false ∧
      (boot.setHp { boot.hp with select := .dead }).hp.select = .dead) := by decide +kernel

theorem witness_FormRefusals : boot.takes ∧ lengthMatches (.readStatus [0#8]) = false ∧
    lengthMatches (.setCurve [0#8, 0#8, 1#8]) = false ∧ lengthMatches (.bindField (List.replicate 12 0#8)) = false ∧
    lengthMatches (.setFieldValue [0x80#8, 2#8, 9#8, 0#8]) = false ∧ judgeFrame [] = none ∧ requestOf 0x09#8 [] = none := by
  decide +kernel

theorem witness_ReadStatus : boot.takes ∧ (boot.respond .ok []).takes := by decide +kernel

theorem witness_FetchAndChipSelect :
    ((boot.respond .held []).judges ∧ (boot.respond .held []).hp.port = .done ∧
      (boot.respond .held []).hp.response = some { code := .held, payload := [] }) ∧
    (boot.judges ∧ boot.hp.port = .idle ∧ boot.hp.select = .high) ∧
    ((waiting boot .setGlass).judges ∧ (waiting boot .setGlass).hp.port = .busy) ∧
    (boot.setHp { boot.hp with select := .low 0x51#8 }).judges ∧
    (boot.setHp { boot.hp with select := .low 0x51#8 }).hp.select = .low 0x51#8 ∧
    ((State.reset.setHp { State.reset.hp with select := .low 0x40#8 }).csu.held = true ∧
      (State.reset.setHp { State.reset.hp with select := .low 0x40#8 }).hp.select = .low 0x40#8) := by decide +kernel

/-- A channel whose one-shot a waiting MEASURE_NOW asked for. -/
def asked (st : LiveState) (un : Bool) : Channel :=
  { blank (windowDef (tag2 0x52#8 0x46#8) 0 none) st with
    sched := { Schedule.clear with oneShot := true, notice := true, unwaited := un } }

theorem witness_Cancel_measure :
    (waiting (withChannel boot 0 (asked .defined true)) (.measureNow 0)).channel 0 = some (asked .defined true) ∧
    ((waiting ((withChannel boot 0 (asked .defined false)).setCe
      { conv := some (conv .window .counting), mux := some 0, oscillator := true }) (.measureNow 0)).converting 0 = true) ∧
    (waiting (withChannel boot 0 (asked .active false)) (.measureNow 0)).converting 0 = false ∧
    (asked .active false).state = .active ∧ (asked .defined false).state ≠ .active := by decide +kernel

theorem witness_Cancel_others : (waiting boot .setGlass).hp.waiting = some .setGlass ∧ boot.hp.waiting = none ∧
    (waiting boot .restart).hp.waiting = some .restart ∧ boot.judges ∧ (waiting boot .setGlass).judges := by decide +kernel

theorem witness_ResetsAndStartUp :
    boot.csu.held = false ∧ State.reset.csu.held = true ∧ (boot.setHp { boot.hp with port := .init }).csu.held = false ∧
      (boot.setHp { boot.hp with port := .init }).hp.port = .init := by decide +kernel

theorem witness_Restart : boot.takes := by decide +kernel

/-- A channel whose interval timer expires at the coming base tick. -/
def due : Channel := { rf with state := .active, sched := { Schedule.clear with countdown := some 1 } }

theorem witness_BaseTick : boot.csu.held = false ∧ boot.csu.early = [] ∧ (withChannel boot 0 due).channel 0 = some due ∧
    due.state = .active ∧ due.sched.countdown = some 1 ∧ boot.ms.mode = .run ∧
    (withChannel boot 0 old639).channel 0 = some old639 ∧ old639.result.freshness = some .fresh ∧
    old639.result.age = some 639 ∧ old639.staleLimit = 640 ∧ boot.channel 7 = none := by decide +kernel

theorem witness_BaseTick_others : (boot.setGs { boot.gs with hold := some 1 }).gs.hold = some 1 ∧
    (waiting boot .restart).hp.waiting = some .restart ∧ boot.hp.waiting ≠ some .restart ∧
    (boot.setCsu { boot.csu with early := [.hold] }).csu.early = [.hold] := by decide +kernel

theorem witness_TickOwners_interval :
    ((withChannel boot 0 due).csu.held = false ∧ (withChannel boot 0 due).queued 0 = false ∧
      (withChannel boot 0 due).converting 0 = false ∧ .interval 0 ∉ (withChannel boot 0 due).csu.early) ∧
    ((withChannel boot 0 due).setQueue [0]).queued 0 = true := by decide +kernel

theorem witness_TickOwners_held : State.reset.csu.held = true ∧ (waiting State.reset .restart).csu.held = true := by
  decide +kernel

theorem witness_TickOwners : old639.staleLimit ≤ 639 + 1 ∧ .age 0 ∉ (withChannel boot 0 old639).csu.early ∧
    (boot.setGs { boot.gs with slow := { lit := true, count := 1 } }).gs.slow.count ≤ 1 ∧
    (boot.setGs { boot.gs with fast := { lit := true, count := 1 } }).gs.fast.count ≤ 1 ∧
    boot.expiresNext .hold = false ∧ boot.expiresNext (.blink .slow) = false := by decide +kernel

/-- A channel with a GOOD result at the age of 640. -/
def old : Channel :=
  { rf with
    staleLimit := 640
    result := { Result.cleared 1 with outcome := .good, raw := some 12000, freshness := some .fresh, age := some 640 } }

/-- What T1's definition asks for, with the handle of RF. -/
def t1Req : DefReq :=
  { tag := tag2 0x54#8 0x31#8, pin := 1, method := .window, countLen := 64, settle := 2, timeout := 16, interval := 64
    ref := some { slot := 0, gen := 0, maxAge := 1280 }, notify := false }

/-- T1's definition as the host sends it. -/
def t1Bytes : List Byte :=
  [0x54#8, 0x31#8, 0x20#8, 0x20#8, 1#8, 0#8, 0#8, 64#8, 2#8, 0#8, 16#8, 0#8, 64#8, 0x00#8, 0x05#8, 0x00#8, 0#8]

theorem witness_DefineChannel : one.takes ∧ t1Bytes.length = 17 ∧ decodeDef t1Bytes 0 = some t1Req ∧ one.firstFree 1 ∧
    (∀ j : Slot, one.ct.tags[j] ≠ some t1Req.tag) ∧ one.ct.pins[t1Req.pin] = none ∧ one.refSound none t1Req := by
  decide +kernel

/-- A table with no FREE slot. -/
def full : State :=
  (List.finRange 8).foldl (fun s i => withChannel s i (blank (windowDef (tag2 0x41#8 (BitVec.ofNat 8 (48 + i))) i none)
    .defined)) boot

theorem witness_DefineRefusals :
    decodeDef (List.replicate 17 0#8) 0 = none ∧ (full.takes ∧ ∀ i : Slot, full.channel i ≠ none) ∧
    (one.channel 1 = none ∧ one.ct.tags[(0 : Slot)] = some rfReq.tag) ∧
    one.ct.pins[({ t1Req with pin := 0 } : DefReq).pin] ≠ none ∧
    (boot.accept 0 0 = none ∧ boot.ct.pins[t1Req.pin] = none) ∧
    (two.accept 1 0 = some t1 ∧ t1.defn.reference ≠ none) := by decide +kernel

theorem witness_ModifyChannel : (lone .suspended).takes ∧ (0x10#8 :: t1Bytes).length = 18 ∧
    decodeDef (0x10#8 :: t1Bytes) 1 = some t1Req ∧ chanHandle 0x10#8 = some (1, 0) ∧
    (two.accept 1 0 = some t1 ∧ t1.state = .active) ∧
    (withChannel one 1 { t1 with state := .suspended }).accept 1 0 = some { t1 with state := .suspended } := by
  decide +kernel

/-- RF in slot 0 and T1, SUSPENDED, in slot 1. -/
def stopped : State := withChannel one 1 { t1 with state := .suspended, sched := Schedule.clear }

theorem witness_ModifyChannel_checks : (∀ j : Slot, stopped.ct.tags[j] = some t1Req.tag → j = 1) ∧
    (∀ j, stopped.ct.pins[t1Req.pin] = some j → j = 1) ∧ stopped.refSound (some 1) t1Req ∧ stopped.noReferrer 1 := by
  decide +kernel

theorem witness_ModifyRefusals : stopped.takes ∧ decodeDef (List.replicate 18 0#8) 1 = none ∧ (0x80#8 : Byte).msb = true ∧
    chanHandle 0x20#8 = some (2, 0) ∧ stopped.accept 2 0 = none ∧ stopped.accept 1 0 ≠ none ∧
    (stopped.ct.tags[(0 : Slot)] = some rfReq.tag ∧ ∀ k : Slot, stopped.ct.tags[k] = some rfReq.tag → k = 0) ∧
    stopped.ct.pins[rfReq.pin] = some 0 := by decide +kernel

theorem witness_ModifyRefusals_references :
    (stopped.accept 5 0 = none ∧ stopped.accept 0 0 = some rf ∧ rf.defn.reference = none ∧ rf.defn.method ≠ .period) ∧
    (stopped.channel 1 = some { t1 with state := .suspended, sched := Schedule.clear } ∧
      t1.defn.reference.map RefLink.slot = some 0 ∧ rfReq.countLen ≠ 65) ∧
    stopped.refSound (some 0) rfReq ∧ (lone .suspended).noReferrer 1 ∧
    ({ rf with curve := some curve } : Channel).curve ≠ none ∧ t1Req.ref.isSome ≠ rf.defn.reference.isSome := by
  decide +kernel

theorem witness_RetireChannel : two.takes ∧ chanHandle 0x10#8 = some (1, 0) ∧ two.accept 1 0 = some t1 ∧
    two.noReferrer 1 ∧ two.accept 0 0 = some rf ∧ (t1.defn.reference.map RefLink.slot) = some 0 := by decide +kernel

theorem witness_ReadRequests : two.takes ∧ two.accept 1 0 = some t1 ∧ fieldHandle 0x80#8 = some (0, 0) ∧
    drawn.acceptField 0 0 = some pat ∧ segAddr 0xDF#8 = some 130 ∧ inGeometry boot.gs.settings.duty 130 = true ∧
    segAddr 0x20#8 = some 32 ∧ inGeometry boot.gs.settings.duty 32 = false ∧ segAddr 0x3F#8 = none := by decide +kernel

theorem witness_FindChannel : one.takes ∧ (tag2 0x52#8 0x46#8).wellFormed = true ∧
    (tag2 0x72#8 0x46#8).wellFormed = false ∧ one.ct.tags[(0 : Slot)] = some (tag2 0x52#8 0x46#8) ∧
    (∀ j : Slot, one.ct.tags[j] = some (tag2 0x52#8 0x46#8) → j = 0) ∧
    ∀ j : Slot, one.ct.tags[j] ≠ some (tag2 0x54#8 0x31#8) := by decide +kernel

theorem witness_TargetRefusals : boot.takes ∧ channelTarget (.readChannel [0x80#8]) = some 0x80#8 ∧
    (0x80#8 : Byte).msb = true ∧ channelTarget (.measureNow [0x7F#8, 1#8]) = some 0x7F#8 ∧
    chanHandle 0x7F#8 = some (7, 15) ∧ boot.accept 7 15 = none ∧ fieldTarget (.readField [0xE0#8]) = some 0xE0#8 ∧
    24 ≤ (0xE0#8 : Byte).toNat / 4 % 32 ∧ fieldTarget (.retireField [0xDF#8]) = some 0xDF#8 ∧
    fieldHandle 0xDF#8 = some (23, 3) ∧ boot.acceptField 23 3 = none := by decide +kernel

theorem witness_TargetRefusals_payloads :
    (lengthMatches (.setCurve [0#8, 4#8, 1#8, 0#8, 0#8, 0#8, 0#8, 0#8]) = true ∧ 3 < (4#8 : Byte).toNat) ∧
    lengthMatches (.editField (List.replicate 10 2#8)) = true ∧ lengthMatches (.retargetField [0x80#8, 3#8, 0#8]) = true ∧
    lengthMatches (.setFieldValue [0x80#8, 4#8]) = true ∧ lengthMatches (.setFieldValue [0x80#8, 1#8, 2#8]) = true ∧
    decodeDef (List.replicate 18 0#8) 1 = none ∧ drawn.acceptField 0 0 = some pat ∧
    mantissaAt (List.replicate 10 0#8) 7 ≤ mantissaAt (List.replicate 10 0#8) 5 := by decide +kernel

theorem witness_ScheduleRequests : two.takes ∧ chanHandle 0x00#8 = some (0, 0) ∧ two.accept 0 0 = some rf ∧
    rf.state ≠ .active ∧ chanHandle 0x10#8 = some (1, 0) ∧ two.accept 1 0 = some t1 ∧ t1.state = .active := by
  decide +kernel

theorem witness_MeasureNow : two.takes ∧ chanHandle 0x10#8 = some (1, 0) ∧ two.accept 1 0 = some t1 ∧
    1 < (2#8 : Byte).toNat := by decide +kernel

theorem witness_Picks :
    ((one.setQueue [0]).ce.conv = none ∧ (one.setQueue [0]).mayStart 0 ∧ (one.setQueue [0]).ms.queue = [] ++ 0 :: [] ∧
      (one.setQueue [0]).channel 0 = some rf ∧ rf.defn.reference = none) ∧
    (old.result.usableWith 1280 12000 ∧ t1.defn.reference = some { slot := 0, maxAge := 1280 } ∧
      (withChannel (withChannel boot 0 old) 1 t1).channel 0 = some old) := by decide +kernel

theorem witness_Picks_chain : ((two.setQueue [1, 0]).ce.conv = none ∧ (two.setQueue [1, 0]).mayStart 1 ∧
    (two.setQueue [1, 0]).ms.queue = [] ++ 1 :: [0] ∧ two.channel 1 = some t1 ∧
    t1.defn.reference = some { slot := 0, maxAge := 1280 } ∧ two.channel 0 = some rf ∧ t1.sched.refTried = false ∧
    rf.state ≠ .suspended) ∧ ∀ d, ¬rf.result.usableWith 1280 d :=
  ⟨by decide +kernel, fun _ h => absurd h.1 (by decide)⟩

theorem witness_Picks_none : boot.ms.queue = [] ∧ (converting (conv .window .counting)).ce.conv ≠ none ∧
    ¬((two.setQueue [1]).setMs { queue := [1], mode := .paused }).mayStart 1 := by decide +kernel

theorem witness_EdgesAndPeriods : boot.ce.conv = none ∧
    (converting (conv .window .settling)).ce.conv = some (conv .window .settling) ∧
    (conv .window .settling).settleRemaining = 1 ∧ 2 ≤ ({ conv .window .settling with settleRemaining := 2 }).settleRemaining ∧
    ({ conv .window .counting with count := 16777214 }).count < 16777215 ∧
    ({ conv .period .counting with opened := false }).opened = false ∧
    2 ≤ ({ conv .period .counting with periodsRemaining := 2 }).periodsRemaining := by decide +kernel

theorem witness_Completions : (converting (conv .window .counting)).ce.conv = some (conv .window .counting) ∧
    (converting (conv .window .counting)).channel (conv .window .counting).channel = some rf ∧
    (conv .window .counting).count = 16777215 ∧ (conv .period .counting).opened = true ∧
    (conv .period .counting).periodsRemaining = 1 := by decide +kernel

/-- A result with a value. -/
def valued (v : Int) (l : LimitState) : Result := { old.result with value := some v, limit := l }

theorem witness_CompletedResult : rf.defn.reference = none ∧ t1.defn.reference = some { slot := 0, maxAge := 1280 } ∧
    old.result.usableWith 1280 12000 ∧ (Result.cleared 0).outcome = .none ∧
    ({ rf with curve := some curve }).curve = some curve ∧ ratioOf 12000 12000 ≤ 65535 ∧ 65535 < ratioOf 192000 12000 := by
  decide +kernel

theorem witness_CurveRule : increasing curve.points = true ∧
    curve.points = [] ++ ⟨2048, -100⟩ :: ⟨4096, 200⟩ :: [⟨6144, 450⟩, ⟨8192, 620⟩] := by decide +kernel

theorem witness_LimitRule : (valued 301 .normal).value = some 301 ∧ boiler.high = some 300 ∧ boiler.low = some 150 ∧
    (280 : Int) ≤ 300 - boiler.hysteresis ∧ (150 : Int) + boiler.hysteresis ≤ 170 := by decide +kernel

/-- SET_CURVE of two breakpoints for the channel in slot 0. -/
def curveBytes (x : Byte) : List Byte :=
  [0x00#8, 0#8, 2#8, 0#8, 0#8, 0#8, 0#8, 0#8, 0#8, 0#8, x, 0x03#8, 0xE8#8]

theorem witness_SetCurve : (withChannel boot 0 old).takes ∧ (curveBytes 1#8).length = 3 + 5 * (byteAt (curveBytes 1#8) 2).toNat ∧
    chanHandle 0x00#8 = some (0, 0) ∧ (withChannel boot 0 old).accept 0 0 = some old ∧
    curveOk old.defn (breakpoints (curveBytes 1#8) 2) = true ∧ curveOk old.defn (breakpoints (curveBytes 0#8) 2) = false ∧
    old.result.outcome = .good ∧ old.input = some 12000 ∧ curveOk old.defn (breakpoints [0x00#8, 0#8, 0#8] 0) = true := by
  decide +kernel

/-- SET_LIMITS of low 150 and high 300 with a hysteresis for the channel in slot 0. -/
def limitsBytes (h : Byte) : List Byte := [0x00#8, 0#8, 1#8, 0#8, 150#8, 1#8, 1#8, 44#8, 0#8, h]

theorem witness_SetLimits : (withChannel boot 0 old).takes ∧ (limitsBytes 20#8).length = 10 ∧
    decodeLimits (limitsBytes 20#8) = some (some boiler) ∧
    decodeLimits (limitsBytes 80#8) = some (some { boiler with hysteresis := 80 }) ∧ (300 : Int) - 150 ≤ 2 * 80 ∧
    decodeLimits [0x00#8, 1#8, 0#8, 0#8, 0#8, 0#8, 0#8, 0#8, 0#8, 0#8] = some none ∧
    decodeLimits [0x00#8, 2#8, 0#8, 0#8, 0#8, 0#8, 0#8, 0#8, 0#8, 0#8] = none := by decide +kernel

theorem witness_SetStaleLimit : (withChannel boot 0 old).takes ∧ (withChannel boot 0 old).accept 0 0 = some old ∧
    old.result.outcome ≠ .none ∧ old.result.age = some 640 ∧ (0x3F#8 : Byte).toNat * 256 + (0xFF#8 : Byte).toNat = 16383 ∧
    one.accept 0 0 = some rf ∧ rf.result.outcome = .none := by decide +kernel

/-- BIND_FIELD of a pattern over two addresses. -/
def bindBytes (a b : Byte) : List Byte :=
  [3#8, 1#8, 0#8, 0#8, 0#8, 0#8, 0#8, 0#8, 0#8, 0#8, 2#8, a, b]

theorem witness_BindField : boot.takes ∧ (bindBytes 9#8 0xDF#8).length = 11 + (byteAt (bindBytes 9#8 0xDF#8) 10).toNat ∧
    (decodeBind (bindBytes 9#8 0xDF#8)).isSome = true ∧ lengthAllowed .pattern 2 = true ∧ boot.firstFreeField 0 ∧
    ((bindBytes 9#8 0xDF#8).drop 11).map segAddr = ([9, 130] : List SegAddr).map some ∧
    (∀ a ∈ ([9, 130] : List SegAddr), inGeometry boot.gs.settings.duty a = true ∧ boot.ft.owners[a] = none) := by
  decide +kernel

theorem witness_BindRefusals : boot.takes ∧ decodeBind (4#8 :: List.replicate 10 0#8) = none ∧
    lengthAllowed .pattern 0 = false ∧ boot.sourceLive (.channel 0 0) = false ∧
    boot.addrIn 0x20#8 = none ∧ (boot.addrIn 9#8).isSome = true ∧
    ((bindBytes 9#8 9#8).drop 11).map boot.addrIn = ([9, 9] : List SegAddr).map some ∧
    ((bindBytes 8#8 9#8).drop 11).map drawn.addrIn = ([8, 9] : List SegAddr).map some ∧
    drawn.ft.owners[(8 : SegAddr)] = none ∧ drawn.ft.owners[(9 : SegAddr)] = some 0 ∧ drawn.field 1 = none := by
  decide +kernel

/-- A field table with no FREE slot. -/
def fullFields : State := (List.finRange 24).foldl (fun s f => s.putField f pat) boot

theorem witness_BindRefusals_noSlot : fullFields.takes ∧ ∀ f : FieldIx, fullFields.field f ≠ none := by decide +kernel

theorem witness_EditAndRetarget : drawn.takes ∧ drawn.acceptField 0 0 = some pat ∧ fieldHandle 0x80#8 = some (0, 0) ∧
    (decodeAppearance (0x80#8 :: List.replicate 9 0#8)).isSome = true ∧
    editKind pat.kind (0x80#8 :: List.replicate 9 0#8) = some .pattern ∧ admits .pattern .host = true ∧
    decodeSource 0#8 0#8 = some .host ∧ decodeSource 1#8 0#8 = some .detached ∧ admits .pattern .detached = false ∧
    admits (.indicator .high) .host = false ∧ editKind (.indicator .hostFlag) [0#8, 0#8] = some (.indicator .high) ∧
    decodeSource 2#8 0x70#8 = some (.channel 7 0) ∧ drawn.sourceLive (.channel 7 0) = false := by decide +kernel

theorem witness_RetireField : drawn.takes ∧ fieldHandle 0x80#8 = some (0, 0) ∧ drawn.acceptField 0 0 = some pat := by
  decide +kernel

theorem witness_SetFieldValue : drawn.takes ∧ valueLengthOk [0x80#8, 2#8, 2#8, 0x80#8] = true ∧
    decodeDatum [0x80#8, 2#8, 2#8, 0x80#8] = some (some (.pattern [true, false])) ∧
    decodeDatum [0x80#8, 3#8] = some none ∧ formMatches .pattern (some (.flag true)) = false ∧
    pat.source = .host ∧ formMatches pat.kind (some (.pattern [true])) = true ∧ [true].length ≠ pat.segs.length := by
  decide +kernel

theorem witness_Render : (drawn.markDirty 0).re.queue = 0 :: [] ∧ (drawn.markDirty 0).field 0 = some pat ∧ pat.segs.Nodup ∧
    boot.re.queue = [] ∧ pat.source = .host := by
  decide +kernel

theorem witness_NumberRule : (1 < 4 ∧ rescale 1235 2 1 = some 124 ∧ rescale 310 1 1 = some 310 ∧
      rescale 31 0 1 = some 310 ∧ rescale 4000 0 1 = none) ∧
    ([0, 5] : List (Fin 10)).foldl (fun n x => n * 10 + x.val) 0 = 5 ∧ digitString 5 1 = [0, 5] ∧
    2 + ([0, 5] : List (Fin 10)).length + 0 = 4 ∧ 4 < (digitString 12345 1).length := by decide +kernel

theorem witness_BarIndicatorPattern : (0 : Int) < 800 ∧
    ({ Result.cleared 0 with outcome := .good, value := some 310 } : Result).outcome = .good ∧
    [true, false].length = 2 := by decide +kernel

theorem witness_SetGlass : boot.takes ∧ decodeGlass [0#8, 1#8, 0#8, 0#8, 0#8] = none ∧
    (decodeGlass [1#8, 1#8, 3#8, 3#8, 1#8]).isSome = true ∧ (boot.setGs { boot.gs with hold := some 1 }).gs.hold ≠ none ∧
    boot.gs.hold = none ∧ inGeometry .quarter 99 = true ∧ inGeometry .third 99 = false ∧
    (withField boot 0 { pat with segs := [99] }).ft.owners[(99 : SegAddr)] = some 0 ∧
    (∀ a : SegAddr, inGeometry .quarter a = true → inGeometry .third a = false → boot.ft.owners[a] = none) := by
  decide +kernel

theorem witness_HoldAndRelease : boot.takes ∧ (0xFF#8 : Byte) ≠ 0#8 ∧ boot.gs.hold = none ∧
    (boot.setGs { boot.gs with hold := some 1 }).takes ∧ (boot.setGs { boot.gs with hold := some 1 }).gs.hold ≠ none := by
  decide +kernel

/-- A waiting SET_GLASS to duty 1/3. -/
def changing : State :=
  waiting (boot.setGs { boot.gs with pendingSettings := some { GlassSettings.powerOn with duty := .third } }) .setGlass

theorem witness_FrameEnd : State.reset.csu.held = true ∧ boot.csu.held = false ∧ boot.gs.pendingSettings = none ∧ changing.csu.held = false ∧
    changing.gs.pendingSettings = some { GlassSettings.powerOn with duty := .third } ∧
    changing.hp.waiting = some .setGlass ∧ changing.gs.hold = none := by decide +kernel

theorem witness_AttentionRequests : boot.takes ∧ (63#8 : Byte).toNat < 64 ∧ 64 ≤ (64#8 : Byte).toNat := by decide +kernel

theorem witness_NumericChoice : ({ rf.result with outcome := .good, value := some 310 } : Result).value = some 310 ∧
    (numericLayout 3 false 1 (.host none)).glyphs[2]? = some .dash := by decide +kernel

theorem witness_PinsAndGlass : State.reset.csu.held = true ∧
    (boot.csu.held = false ∧ boot.gs.drive.display = false) ∧
    ((boot.setGs { boot.gs with drive := { boot.gs.drive with display := true } }).gs.drive.display = true ∧
      boot.gs.frameTimer = 512) ∧
    ((boot.setGs { boot.gs with drive := { boot.gs.drive with display := true }, frameTimer := 0 }).csu.held = false ∧
      (boot.setGs { boot.gs with drive := { boot.gs.drive with display := true }, frameTimer := 0 }).lineDrive
        = .scan 3) ∧
    2 < boot.gs.settings.duty.commons := by decide +kernel

/-- T1 queued behind the conversion of its reference RF, which it chained, and a pattern field drawn and dirty. -/
def busy : State := (withField (two.setQueue [1]).pick 0 pat).markDirty 0

theorem witness_StepKeeps_next : ∃ t, step busy = .next t := ⟨_, rfl⟩

theorem witness_StepKeepsShownLaw : ShownLaw busy := by unfold ShownLaw; decide +kernel

theorem witness_StepKeepsTableLaws : TableLaws busy := by
  unfold TableLaws PinLaw TagLaw ReferenceLaw; decide +kernel

theorem busy_conv : busy.ce.conv = some (Conversion.start 0 rf.defn) := by decide +kernel

theorem witness_StepKeepsScheduleLaws : ScheduleLaws busy := by
  refine ⟨by unfold QueueLaw; decide +kernel, ⟨fun v h => ?_, fun h => ?_⟩, by unfold TimerLaw; decide +kernel, fun h => ?_⟩
  · rw [busy_conv] at h
    cases h
    unfold ConversionLaw
    decide +kernel
  · rw [busy_conv] at h; cases h
  · rw [busy_conv] at h; cases h

/-- A channel with a curve, limits and a stale limit, and an OVER result that they all judge. -/
def judged : Channel :=
  { rf with
    curve := some curve
    limits := some boiler
    staleLimit := 640
    result := { outcome := .over, raw := some 12000, ratio := none, value := some 620, freshness := some .fresh
                age := some 639, seq := 1, limit := .high } }

theorem witness_StepKeepsRecordLaw : RecordLaw (withChannel boot 0 judged) := by
  refine ⟨fun v h => (by cases h), fun i c h => ?_⟩
  have e : ∀ i : Slot, ∀ c ∈ (withChannel boot 0 judged).channel i, c = judged := by decide +kernel
  cases e i c h
  refine ⟨by unfold ChannelDef.Law; decide +kernel, ⟨rfl, rfl, 12000, rfl, by decide +kernel, rfl⟩,
    by unfold Result.RangeLaw; decide +kernel, by unfold Channel.FreshnessLaw; decide +kernel,
    by unfold Channel.LimitLaw; decide +kernel, by unfold Channel.CurveLaw; decide +kernel⟩

theorem witness_StepKeepsSourceLaw : SourceLaw busy := by
  intro f d h
  have e : ∀ f : FieldIx, ∀ d ∈ busy.field f, d = pat := by decide +kernel
  cases e f d h
  exact ⟨trivial, by simp [pat], rfl, rfl, rfl, by decide, rfl, rfl⟩

theorem witness_StepKeepsDisplayLaws : DisplayLaws busy := by
  have ownerLaw : OwnerLaw busy := by
    unfold OwnerLaw
    refine ⟨?_, ?_⟩ <;> decide +kernel
  have glassLaw : GlassLaw busy := by
    unfold GlassLaw
    refine ⟨?_, ?_, ?_⟩ <;> decide +kernel
  have portLaw : PortLaw busy := ⟨by decide +kernel, by decide +kernel, fun h => absurd h (by decide +kernel)⟩
  exact ⟨ownerLaw, by unfold PlaneLaw; decide +kernel, by unfold RenderQueueLaw; decide +kernel, glassLaw, portLaw,
    by unfold CountLaw; decide +kernel⟩

theorem witness_StepKeepsPairAndWaitLaws : PairLaw busy ∧ WaitLaws (waiting (withChannel busy 0 (asked .defined false))
    (.measureNow 0)) := by
  refine ⟨by unfold PairLaw; decide +kernel, ⟨by decide +kernel, by decide +kernel, fun h => absurd h (by decide +kernel)⟩,
    by unfold QueueLaw; decide +kernel, fun i h => ?_⟩
  have e : i = 0 := by
    have : some (Waiting.measureNow 0) = some (Waiting.measureNow i) := h
    cases this
    rfl
  cases e
  decide +kernel

end Sys2Proof.Tests
end

/-! SUPPORT. What the checks of DEFINE_CHANNEL and the tag search of FIND_CHANNEL come to (R7, R9, R19), and the two
statements about them. -/

namespace Sys2Proof.Machine

/-! ## The searches -/

/-- A table with every slot live has no FREE slot (R10). -/
theorem State.freeSlot_none {s : State} (h : ∀ i : Slot, s.channel i ≠ none) : s.freeSlot = none := by
  unfold State.freeSlot
  rw [List.find?_eq_none]
  intro i _
  simpa using h i

/-- A table with a FREE slot has a first one (R10). -/
theorem State.freeSlot_isSome {s : State} {i : Slot} (h : s.channel i = none) : ∃ k, s.freeSlot = some k := by
  unfold State.freeSlot
  rw [← Option.isSome_iff_exists, List.find?_isSome]
  exact ⟨i, List.mem_finRange i, by simp [h]⟩

/-- A tag that one entry alone has is found there (R19). -/
theorem State.tagSlot_unique {s : State} {t : Tag} {i : Slot} (hi : s.ct.tags[i] = some t)
    (hu : ∀ j : Slot, s.ct.tags[j] = some t → j = i) : s.tagSlot t = some i := by
  obtain ⟨k, hk, ht⟩ := State.tagSlot_some hi
  rw [hk, hu k ht]

/-! ## The reference check (R7) -/

/-- A reference whose handle is not accepted fails the check with STALE_HANDLE. -/
theorem State.refCheck_stale {s : State} {target : Option Slot} {q : DefReq} {r : RefReq} (hr : q.ref = some r)
    (ha : s.accept r.slot r.gen = none) : s.refCheck target q = some .staleHandle := by
  simp only [State.refCheck, hr, ha]

/-- A reference to a channel with a reference of its own, another method or another counting length fails the check with
MISMATCH. -/
theorem State.refCheck_mismatch {s : State} {target : Option Slot} {q : DefReq} {r : RefReq} {c : Channel}
    (hr : q.ref = some r) (ha : s.accept r.slot r.gen = some c)
    (hc : c.defn.reference ≠ none ∨ c.defn.method ≠ q.method ∨ c.defn.countLen ≠ q.countLen) :
    s.refCheck target q = some .mismatch := by
  simp only [State.refCheck, hr, ha]
  exact if_pos (.inr (hc.imp_left Option.isSome_iff_ne_none.2))

/-! ## Steps 3 to 5 of R9 -/

/-- A tag that an entry has fails with DUPLICATE_TAG. -/
theorem State.defineCheck_duplicateTag {s : State} {q : DefReq} {j : Slot} (h : s.ct.tags[j] = some q.tag) :
    s.defineCheck q = some .duplicateTag := by
  obtain ⟨k, hk, -⟩ := State.tagSlot_some h
  simp [State.defineCheck, hk]

/-- With a new tag, an owned pin fails with PIN_TAKEN. -/
theorem State.defineCheck_pinTaken {s : State} {q : DefReq} (ht : ∀ j : Slot, s.ct.tags[j] ≠ some q.tag)
    (hp : s.ct.pins[q.pin] ≠ none) : s.defineCheck q = some .pinTaken := by
  unfold State.defineCheck
  rw [State.tagSlot_none ht, if_neg (by simp), if_pos (Option.isSome_iff_ne_none.2 hp)]

/-- With a new tag and a free pin, the reference check decides. -/
theorem State.defineCheck_eq_refCheck {s : State} {q : DefReq} (ht : ∀ j : Slot, s.ct.tags[j] ≠ some q.tag)
    (hp : s.ct.pins[q.pin] = none) : s.defineCheck q = s.refCheck none q := by
  simp [State.defineCheck, State.tagSlot_none ht, hp]

/-! ## DEFINE_CHANNEL -/

/-- A DEFINE_CHANNEL of the right length that is taken runs on the state entered. -/
theorem exec_defineChannel_taken {p : List Byte} {s : State} (h : s.takes) (hl : p.length = 17) :
    exec (.defineChannel p) s = .next (doDefine p s.entered) :=
  congrArg Host.Outcome.next (hostRequest_taken h (decide_eq_true hl))

/-- A definition that is not well-formed is refused BAD_PARAMETER (R9, step 1). -/
theorem doDefine_malformed {p : List Byte} {s : State} (hd : decodeDef p 0 = none) :
    doDefine p s = s.respond .badParameter [] := by
  simp only [doDefine, hd]

/-- A well-formed definition with no FREE slot is refused NO_SLOT (R9, step 2). -/
theorem doDefine_noSlot {p : List Byte} {q : DefReq} {s : State} (hd : decodeDef p 0 = some q)
    (hf : s.freeSlot = none) : doDefine p s = s.respond .noSlot [] := by
  simp only [doDefine, hd, hf]

/-- A well-formed definition with a FREE slot is refused with the code of the check of R9, steps 3 to 5, that fails. -/
theorem doDefine_refused {p : List Byte} {q : DefReq} {s : State} {i : Slot} {code : ResultCode}
    (hd : decodeDef p 0 = some q) (hi : s.channel i = none) (hc : s.defineCheck q = some code) :
    doDefine p s = s.respond code [] := by
  obtain ⟨k, hk⟩ := State.freeSlot_isSome hi
  simp only [doDefine, hd, hk, hc]

/-- A DEFINE_CHANNEL whose definition is well-formed and that finds a FREE slot is refused with the code its further
checks come to, and nothing but the host port changes. -/
theorem exec_defineChannel_refused {p : List Byte} {q : DefReq} {s : State} {i : Slot} {code : ResultCode}
    (h : s.takes) (hl : p.length = 17) (hd : decodeDef p 0 = some q) (hi : s.channel i = none)
    (hc : s.defineCheck q = some code) :
    exec (.defineChannel p) s = .next { s with hp := s.answered code [] } := by
  rw [exec_defineChannel_taken h hl, doDefine_refused (s := s.entered) hd hi hc, State.entered_respond]

/-- Settles O17, check by check in the order of R9. -/
theorem defineRefusals : Obligations.DefineRefusals := by
  intro p s hs hl
  refine ⟨fun hd => ?malformed, fun q hd => ⟨fun hfull => ?noSlot, fun i hi => ?free⟩⟩
  case malformed => rw [exec_defineChannel_taken hs hl, doDefine_malformed hd, State.entered_respond]
  case noSlot =>
    have hf : s.entered.freeSlot = none := State.freeSlot_none (s := s.entered) hfull
    rw [exec_defineChannel_taken hs hl, doDefine_noSlot hd hf, State.entered_respond]
  case free =>
    have refused {code} := exec_defineChannel_refused (code := code) hs hl hd hi
    refine ⟨fun j hj => ?duplicateTag, fun ht => ⟨fun hp => ?pinTaken, fun hp r hr => ?reference⟩⟩
    case duplicateTag => exact refused (State.defineCheck_duplicateTag hj)
    case pinTaken => exact refused (State.defineCheck_pinTaken ht hp)
    case reference =>
      have hcheck := State.defineCheck_eq_refCheck ht hp
      exact ⟨fun ha => refused (hcheck.trans (State.refCheck_stale hr ha)),
        fun c ha hc => refused (hcheck.trans (State.refCheck_mismatch hr ha hc))⟩

/-! ## FIND_CHANNEL -/

/-- Entering a frame leaves the generations, and so the handle of a slot, as they are. -/
theorem State.entered_handleByte (s : State) (i : Slot) : s.entered.handleByte i = chanByte i s.ct.slots[i].gen := rfl

/-- The tag that four payload bytes spell. -/
theorem tagAt_four (a b c d : Byte) : tagAt [a, b, c, d] 0 = { c0 := a, c1 := b, c2 := c, c3 := d } := rfl

/-- A FIND_CHANNEL of the right length that is taken runs on the state entered. -/
theorem exec_findChannel_taken {p : List Byte} {s : State} (h : s.takes) (hl : p.length = 4) :
    exec (.findChannel p) s = .next (doFind p s.entered) :=
  congrArg Host.Outcome.next (hostRequest_taken h (decide_eq_true hl))

/-- A tag that is not well-formed is refused BAD_PARAMETER (R19). -/
theorem doFind_malformed {p : List Byte} {s : State} (hw : (tagAt p 0).wellFormed = false) :
    doFind p s = s.respond .badParameter [] := by
  simp [doFind, hw]

/-- A well-formed tag found at a slot is answered with the slot's handle (R19). -/
theorem doFind_found {p : List Byte} {s : State} {i : Slot} (hw : (tagAt p 0).wellFormed = true)
    (hf : s.tagSlot (tagAt p 0) = some i) : doFind p s = s.respond .ok [s.handleByte i] := by
  simp [doFind, hw, hf]

/-- A well-formed tag that is not found is answered NOT_FOUND (R19). -/
theorem doFind_notFound {p : List Byte} {s : State} (hw : (tagAt p 0).wellFormed = true)
    (hf : s.tagSlot (tagAt p 0) = none) : doFind p s = s.respond .notFound [] := by
  simp [doFind, hw, hf]

/-- Settles O25, by the outcome of the tag search on the map, which entering the frame leaves as it is. -/
theorem findChannel : Obligations.FindChannel := by
  intro a b c d s hs
  rw [← tagAt_four a b c d, exec_findChannel_taken hs rfl]
  refine ⟨fun hw => ?malformed, fun hw => ⟨fun i hi hu => ?found, fun hn => ?notFound⟩⟩
  case malformed => rw [doFind_malformed hw, State.entered_respond]
  case found =>
    have hf : s.entered.tagSlot (tagAt [a, b, c, d] 0) = some i := State.tagSlot_unique (s := s.entered) hi hu
    rw [doFind_found hw hf, State.entered_handleByte, State.entered_respond]
  case notFound =>
    have hf : s.entered.tagSlot (tagAt [a, b, c, d] 0) = none := State.tagSlot_none (s := s.entered) hn
    rw [doFind_notFound hw hf, State.entered_respond]

end Sys2Proof.Machine

/-! SUPPORT. The limit state machine and SET_LIMITS (R87, R89, R90), and the two statements about them. -/

namespace Sys2Proof.Machine

/-! ## The limit state machine (R87) -/

/-- The condition `v > high` of R87, false with the high bound absent. -/
def Limits.above (l : Limits) (v : Int) : Bool := l.high.any fun h => h < v

/-- The condition `v < low` of R87, false with the low bound absent. -/
def Limits.below (l : Limits) (v : Int) : Bool := l.low.any fun b => v < b

theorem Limits.above_iff {l : Limits} {v : Int} : l.above v = true ↔ ∃ h, l.high = some h ∧ h < v := by
  simp [Limits.above, Option.any_eq_true]

theorem Limits.not_above_iff {l : Limits} {v : Int} : ¬l.above v = true ↔ ∀ h, l.high = some h → v ≤ h := by
  simp [Limits.above_iff]

theorem Limits.below_iff {l : Limits} {v : Int} : l.below v = true ↔ ∃ b, l.low = some b ∧ v < b := by
  simp [Limits.below, Option.any_eq_true]

theorem Limits.not_below_iff {l : Limits} {v : Int} : ¬l.below v = true ↔ ∀ b, l.low = some b → b ≤ v := by
  simp [Limits.below_iff]

/-- The row of R87 from NORMAL. -/
theorem Limits.move_normal (l : Limits) (v : Int) :
    l.move .normal v = if l.above v then .high else if l.below v then .low else .normal := rfl

/-- The row of R87 from HIGH, which has a high bound (R86). -/
theorem Limits.move_high {l : Limits} {h : Int} (hh : l.high = some h) (v : Int) :
    l.move .high v = if v ≤ h - l.hysteresis then (if l.below v then .low else .normal) else .high := by
  change (if l.high.any (fun h => v ≤ h - l.hysteresis) then (if l.below v then _ else _) else _) = _
  simp only [hh, Option.any_some, decide_eq_true_eq]

/-- The row of R87 from LOW, which has a low bound (R86). -/
theorem Limits.move_low {l : Limits} {b : Int} (hb : l.low = some b) (v : Int) :
    l.move .low v = if b + l.hysteresis ≤ v then (if l.above v then .high else .normal) else .low := by
  change (if l.low.any (fun b => b + l.hysteresis ≤ v) then (if l.above v then _ else _) else _) = _
  simp only [hb, Option.any_some, decide_eq_true_eq]

/-- An evaluation of a present value without limits leaves NORMAL. -/
theorem Result.evaluate_none_limit {r : Result} {v : Int} (hv : r.value = some v) :
    (r.evaluate none).limit = .normal := by
  simp only [Result.evaluate, hv]

/-- An evaluation of a present value under a limit set makes one move. -/
theorem Result.evaluate_some_limit {r : Result} {v : Int} (hv : r.value = some v) (l : Limits) :
    (r.evaluate (some l)).limit = l.move r.limit v := by
  simp only [Result.evaluate, hv]

/-- Settles O34, move by move of the table of R87. -/
theorem limitRule : Obligations.LimitRule := by
  intro r v hv
  refine ⟨Result.evaluate_none_limit hv, fun l => ?_⟩
  rw [Result.evaluate_some_limit hv]
  refine ⟨fun hr ha => ?normalToHigh, fun hr hb ha => ?normalToLow, fun hr ha hb => ?normalStays,
    fun h hr hh hv hb => ?highToLow, fun h hr hh hv hb => ?highToNormal, fun h hr hh hv => ?highStays,
    fun b hr hb hv ha => ?lowToHigh, fun b hr hb hv ha => ?lowToNormal, fun b hr hb hv => ?lowStays⟩
  case normalToHigh => rw [hr, Limits.move_normal, if_pos (Limits.above_iff.2 ha)]
  case normalToLow =>
    rw [hr, Limits.move_normal, if_neg (Limits.not_above_iff.2 ha), if_pos (Limits.below_iff.2 hb)]
  case normalStays =>
    rw [hr, Limits.move_normal, if_neg (Limits.not_above_iff.2 ha), if_neg (Limits.not_below_iff.2 hb)]
  case highToLow => rw [hr, Limits.move_high hh, if_pos hv, if_pos (Limits.below_iff.2 hb)]
  case highToNormal => rw [hr, Limits.move_high hh, if_pos hv, if_neg (Limits.not_below_iff.2 hb)]
  case highStays => rw [hr, Limits.move_high hh, if_neg (Int.not_le.2 hv)]
  case lowToHigh => rw [hr, Limits.move_low hb, if_pos hv, if_pos (Limits.above_iff.2 ha)]
  case lowToNormal => rw [hr, Limits.move_low hb, if_pos hv, if_neg (Limits.not_above_iff.2 ha)]
  case lowStays => rw [hr, Limits.move_low hb, if_neg (Int.not_le.2 hv)]

/-! ## Records changed with their raises -/

/-- Everything the storing of a changed record does: the record, LIMIT on a change of the limit state, and QUALITY as asked
(R73, R77, R88). -/
theorem State.putResult_eq (s : State) (i : Slot) (c : Channel) (r : Result) (quality : Bool) :
    s.putResult i c r quality = { s with
      ct := s.tableWith i { c with result := r }
      au := s.pairsRaised i false (r.limit ≠ c.result.limit) quality false } := by
  have raises := s.pairsRaised_eq i false (r.limit ≠ c.result.limit) quality false
  rw [← raises]
  rfl

/-- The fields of a channel are the same after its record is stored. -/
theorem State.putResult_fieldsOf (s : State) (i : Slot) (c : Channel) (r : Result) (quality : Bool) :
    (s.putResult i c r quality).fieldsOf i = s.fieldsOf i :=
  State.fieldsOf_congr rfl (s.putChannel_gen i i _)

/-- Everything the storing of a changed record with the marks on its channel's fields does (R74, R77, R90). -/
theorem State.putResult_markFields (s : State) (i : Slot) (c : Channel) (r : Result) (quality : Bool) :
    (s.putResult i c r quality).markFields i = { s with
      ct := s.tableWith i { c with result := r }
      au := s.pairsRaised i false (r.limit ≠ c.result.limit) quality false
      re := s.dirtied (s.fieldsOf i) } := by
  rw [State.markFields_eq, State.putResult_fieldsOf, State.putResult_eq]
  rfl

/-! ## SET_LIMITS (R89, R90) -/

/-- The limit sets that step 3 of R89 refuses: without a bound, or with a band no wider than twice the hysteresis. -/
theorem Limits.valid_eq_false_iff {l : Limits} :
    l.valid = false ↔ (l.low = none ∧ l.high = none) ∨
      ∃ a b, l.low = some a ∧ l.high = some b ∧ b - a ≤ 2 * (l.hysteresis : Int) := by
  unfold Limits.valid
  cases l.low <;> cases l.high <;> simp

/-- The limit sets that step 3 of R89 lets pass: with a bound, and with two in a band wider than twice the hysteresis. -/
theorem Limits.valid_iff {l : Limits} :
    l.valid = true ↔ (l.low ≠ none ∨ l.high ≠ none) ∧
      ∀ a b, l.low = some a → l.high = some b → 2 * (l.hysteresis : Int) < b - a := by
  unfold Limits.valid
  cases l.low <;> cases l.high <;> simp

/-- Without limits the state set NORMAL stays, whether or not a value is present (R90). -/
theorem Result.evaluate_none_of_normal (r : Result) :
    ({ r with limit := .normal } : Result).evaluate none = { r with limit := .normal } := by
  unfold Result.evaluate
  cases r.value <;> rfl

/-- The channel after the effects of SET_LIMITS on its record: the set stored or removed, and the limit state set NORMAL and
evaluated once (R90). -/
def Channel.relimited (c : Channel) (l : Option Limits) : Channel :=
  { c with limits := l, result := ({ c.result with limit := .normal } : Result).evaluate l }

/-- The record after REMOVE. -/
theorem Channel.relimited_none (c : Channel) :
    c.relimited none = { c with limits := none, result := { c.result with limit := .normal } } := by
  simp only [Channel.relimited, Result.evaluate_none_of_normal]

/-- Everything a successful SET_LIMITS does before its answer (R90). -/
theorem State.setLimits_eq (s : State) (i : Slot) (c : Channel) (l : Option Limits) :
    s.setLimits i c l = { s with
      ct := s.tableWith i (c.relimited l)
      au := s.pairsRaised i false ((c.relimited l).result.limit ≠ c.result.limit) false false
      re := s.dirtied (s.fieldsOf i) } :=
  s.putResult_markFields i { c with limits := l } _ false

/-- What a successful SET_LIMITS of a taken frame leaves, its answer included (R90). -/
theorem State.entered_setLimits_respond (s : State) (i : Slot) (c : Channel) (l : Option Limits) :
    (s.entered.setLimits i c l).respond .ok [] = { s with
      ct := s.tableWith i (c.relimited l)
      au := s.pairsRaised i false ((c.relimited l).result.limit ≠ c.result.limit) false false
      re := s.dirtied (s.fieldsOf i)
      hp := s.answered .ok [] } := by
  rw [State.setLimits_eq]
  rfl

/-- A SET_LIMITS of the right length that is taken runs on the state entered. -/
theorem exec_setLimits_taken {p : List Byte} {s : State} (h : s.takes) (hl : p.length = 10) :
    exec (.setLimits p) s = .next (doSetLimits p s.entered) :=
  congrArg Host.Outcome.next (hostRequest_taken h (decide_eq_true hl))

/-- A payload that is not well-formed is refused BAD_PARAMETER, when it names a channel (R89, step 1). -/
theorem doSetLimits_malformed {p : List Byte} {s : State} {i : Slot} {g : Fin 16}
    (hb : chanHandle (byteAt p 0) = some (i, g)) (hd : decodeLimits p = none) :
    doSetLimits p s = s.respond .badParameter [] := by
  simp [doSetLimits, onChannel, hb, hd]

section Accepted

variable {p : List Byte} {s : State} {i : Slot} {g : Fin 16} {c : Channel}

/-- REMOVE for an accepted handle (R90). -/
theorem doSetLimits_remove (hb : chanHandle (byteAt p 0) = some (i, g)) (hc : s.accept i g = some c)
    (hd : decodeLimits p = some none) : doSetLimits p s = (s.setLimits i c none).respond .ok [] := by
  rw [doSetLimits, onChannel_accepted hb (by rw [hd]; rfl) hc, hd]
  rfl

/-- SET for an accepted handle of a set that is not valid (R89, step 3). -/
theorem doSetLimits_badLimits {l : Limits} (hb : chanHandle (byteAt p 0) = some (i, g)) (hc : s.accept i g = some c)
    (hd : decodeLimits p = some (some l)) (hl : l.valid = false) :
    doSetLimits p s = s.respond .badLimits [] := by
  rw [doSetLimits, onChannel_accepted hb (by rw [hd]; rfl) hc, hd]
  exact if_neg (Bool.eq_false_iff.1 hl)

/-- SET for an accepted handle of a valid set (R90). -/
theorem doSetLimits_set {l : Limits} (hb : chanHandle (byteAt p 0) = some (i, g)) (hc : s.accept i g = some c)
    (hd : decodeLimits p = some (some l)) (hl : l.valid = true) :
    doSetLimits p s = (s.setLimits i c (some l)).respond .ok [] := by
  rw [doSetLimits, onChannel_accepted hb (by rw [hd]; rfl) hc, hd]
  exact if_pos hl

end Accepted

/-- Settles O36, by the mode of the payload and the validity of its limit set. -/
theorem setLimits : Obligations.SetLimits := by
  intro p s i g c hs hlen hb hc
  have hc : s.entered.accept i g = some c := hc
  rw [exec_setLimits_taken hs hlen]
  refine ⟨fun hd => ?malformed, fun hd => ?remove, fun l hd => ⟨fun hbad => ?badLimits, fun hbound hband => ?set⟩⟩
  case malformed => rw [doSetLimits_malformed hb hd, State.entered_respond]
  case remove =>
    rw [doSetLimits_remove hb hc hd, State.entered_setLimits_respond, Channel.relimited_none]
    simp only [ne_comm]
  case badLimits =>
    rw [doSetLimits_badLimits hb hc hd (Limits.valid_eq_false_iff.2 hbad), State.entered_respond]
  case set =>
    rw [doSetLimits_set hb hc hd (Limits.valid_iff.2 ⟨hbound, hband⟩), State.entered_setLimits_respond]
    rfl

end Sys2Proof.Machine

/-! SUPPORT. The law of the shown plane (R134): which parts of the state it speaks of, which operations leave them
alone and how the others keep it, and that every command, and so every step, keeps it. -/

namespace Sys2Proof.Machine

/-! ## What the law speaks of -/

/-- The parts of the state that the law of R134 speaks of: the pending plane, its changed mark and the shown plane. -/
def State.planes (s : State) : Plane × Bool × Plane := (s.re.plane, s.re.changed, s.gs.shown)

/-- The law of R134 is met or not by these parts alone. -/
theorem ShownLaw.of_planes {s t : State} (h : t.planes = s.planes) (hs : ShownLaw s) : ShownLaw t := by
  obtain ⟨hplane, hchanged, hshown⟩ :
      t.re.plane = s.re.plane ∧ t.re.changed = s.re.changed ∧ t.gs.shown = s.gs.shown := by
    simpa [State.planes] using h
  intro hclear
  rw [hshown, hplane]
  exact hs (hchanged ▸ hclear)

/-- A set changed mark asks nothing of the planes. -/
theorem ShownLaw.of_changed {s : State} (h : s.re.changed = true) : ShownLaw s :=
  fun hclear => absurd (h.symm.trans hclear) (by decide)

/-- Equal planes meet the law whatever the mark. -/
theorem ShownLaw.of_eq {s : State} (h : s.gs.shown = s.re.plane) : ShownLaw s := fun _ => h

/-- An operation on the state keeps the law of R134. -/
def KeepsShown (f : State → State) : Prop := ∀ s, ShownLaw s → ShownLaw (f s)

/-- An operation that leaves both planes and the mark alone keeps the law. -/
theorem KeepsShown.of_planes {f : State → State} (h : ∀ s, (f s).planes = s.planes) : KeepsShown f :=
  fun s => ShownLaw.of_planes (h s)

/-! ## Shared operations that leave the planes alone -/

/-- A change of the scanner that keeps the shown plane. -/
theorem State.setGs_planes {s : State} {x : Scanner} (h : x.shown = s.gs.shown) : (s.setGs x).planes = s.planes :=
  congrArg (fun shown => (s.re.plane, s.re.changed, shown)) h

theorem State.endWait_planes (s : State) (w : Waiting) (code : ResultCode) (payload : List Byte) :
    (s.endWait w code payload).planes = s.planes := by
  unfold State.endWait
  split <;> rfl

theorem State.onSched_planes (s : State) (i : Slot) (f : Schedule → Schedule) : (s.onSched i f).planes = s.planes := by
  unfold State.onSched State.onRecord
  split <;> rfl

theorem State.joinTail_planes (s : State) (i : Slot) : (s.joinTail i).planes = s.planes := by
  rw [State.joinTail_eq]
  rfl

theorem State.abandon_planes (s : State) (i : Slot) : (s.abandon i).planes = s.planes := by
  rw [State.abandon_eq]
  rfl

theorem State.pick_planes (s : State) : s.pick.planes = s.planes := by
  simp only [State.planes, State.pick_re, State.pick_gs]

/-- A dirty mark joins the render queue and draws nothing (R114). -/
theorem State.markDirty_planes (s : State) (f : FieldIx) : (s.markDirty f).planes = s.planes := by
  rw [State.markDirty_eq]
  rfl

theorem State.markAll_planes (s : State) (fs : List FieldIx) : (s.markAll fs).planes = s.planes := by
  induction fs generalizing s with
  | nil => rfl
  | cons f rest ih => exact (ih (s.markDirty f)).trans (s.markDirty_planes f)

/-- A completion writes a record, the attention pairs, the port and the render queue, and no plane (R33). -/
theorem State.complete_planes (s : State) (i : Slot) (e : Ending) : (s.complete i e).planes = s.planes := by
  cases hc : s.channel i with
  | none =>
    have hstop : s.complete i e = s.stopEngine.pick := by simp only [State.complete, hc]
    rw [hstop]
    exact s.stopEngine.pick_planes
  | some c =>
    rw [State.complete_eq e hc]
    exact State.pick_planes _

/-! ## The host port's frames -/

/-- What a COMMAND frame can come to: it changes the host port alone, or its act runs behind such a change. -/
theorem commandFrame_cases (act : State → State) (s : State) :
    ∃ hp, commandFrame act s = s.setHp hp ∨ commandFrame act s = act (s.setHp hp) := by
  unfold commandFrame
  split
  · exact ⟨_, .inl rfl⟩
  · split
    · exact ⟨_, .inl rfl⟩
    · exact ⟨_, .inl rfl⟩
    · exact ⟨_, .inr rfl⟩
    · exact ⟨_, .inr rfl⟩

theorem commandFrame_keepsShown {act : State → State} (h : KeepsShown act) : KeepsShown (commandFrame act) := by
  intro s hs
  obtain ⟨hp, e | e⟩ := commandFrame_cases act s
  · rw [e]
    exact hs
  · rw [e]
    exact h _ hs

theorem hostRequest_keepsShown {ok : Bool} {act : State → State} (h : KeepsShown act) :
    KeepsShown (hostRequest ok act) := by
  refine commandFrame_keepsShown fun s hs => ?_
  split
  · exact h s hs
  · exact hs

/-- What a request that names a channel can come to: a refusal, or its act on a live channel. -/
theorem onChannel_cases (ok : Bool) (b : Byte) (act : Slot → Channel → State → State) (s : State) :
    (∃ code, onChannel ok b act s = s.respond code []) ∨ ∃ i c, onChannel ok b act s = act i c s := by
  unfold onChannel
  split
  · exact .inl ⟨_, rfl⟩
  · split
    · split
      · exact .inl ⟨_, rfl⟩
      · exact .inr ⟨_, _, rfl⟩
    · exact .inl ⟨_, rfl⟩

theorem onChannel_keepsShown {ok : Bool} {b : Byte} {act : Slot → Channel → State → State}
    (h : ∀ i c, KeepsShown (act i c)) : KeepsShown (onChannel ok b act) := by
  intro s hs
  obtain ⟨code, e⟩ | ⟨i, c, e⟩ := onChannel_cases ok b act s
  · rw [e]
    exact hs
  · rw [e]
    exact h i c s hs

/-- What a request that names a field can come to: a refusal, or its act on a bound field. -/
theorem onField_cases (ok : Bool) (b : Byte) (act : FieldIx → Field → State → State) (s : State) :
    (∃ code, onField ok b act s = s.respond code []) ∨ ∃ f d, onField ok b act s = act f d s := by
  unfold onField
  split
  · exact .inl ⟨_, rfl⟩
  · split
    · split
      · exact .inl ⟨_, rfl⟩
      · exact .inr ⟨_, _, rfl⟩
    · exact .inl ⟨_, rfl⟩

theorem onField_keepsShown {ok : Bool} {b : Byte} {act : FieldIx → Field → State → State}
    (h : ∀ f d, KeepsShown (act f d)) : KeepsShown (onField ok b act) := by
  intro s hs
  obtain ⟨code, e⟩ | ⟨f, d, e⟩ := onField_cases ok b act s
  · rw [e]
    exact hs
  · rw [e]
    exact h f d s hs

/-! ## Requests about channels, results and the schedule -/

theorem doDefine_keepsShown (p : List Byte) : KeepsShown (doDefine p) := by
  refine .of_planes fun s => ?_
  unfold doDefine
  split
  · rfl
  · split
    · rfl
    · split <;> rfl

theorem doModify_keepsShown (p : List Byte) : KeepsShown (doModify p) := by
  intro s hs
  unfold doModify
  split
  · exact hs
  · refine onChannel_keepsShown (fun i c => .of_planes fun s => ?_) s hs
    split
    · rfl
    · rw [State.pick_planes]
      exact (State.markAll_planes _ _).trans (s.abandon_planes i)

/-- A retirement detaches its channel's fields and marks them dirty, and draws none of them (R108). -/
theorem doRetire_keepsShown (p : List Byte) : KeepsShown (doRetire p) := by
  refine onChannel_keepsShown fun i c => .of_planes fun s => ?_
  split
  · rfl
  · rw [State.pick_planes]
    exact (State.markAll_planes _ _).trans (s.abandon_planes i)

theorem doFind_keepsShown (p : List Byte) : KeepsShown (doFind p) := by
  refine .of_planes fun s => ?_
  unfold doFind
  split
  · split <;> rfl
  · rfl

theorem doStart_keepsShown (p : List Byte) : KeepsShown (doStart p) := by
  refine onChannel_keepsShown fun i c => .of_planes fun s => ?_
  split
  · rfl
  · rw [State.pick_planes]
    exact State.joinTail_planes _ i

theorem doSuspend_keepsShown (p : List Byte) : KeepsShown (doSuspend p) := by
  refine onChannel_keepsShown fun i c => .of_planes fun s => ?_
  split
  · rw [State.pick_planes]
    exact s.abandon_planes i
  · rfl

theorem State.measure_planes (s : State) (i : Slot) (wait : Bool) : (s.measure i wait).planes = s.planes := by
  have hasked := s.onSched_planes i fun c => c.asked wait
  unfold State.measure
  dsimp only
  split
  · exact hasked
  · exact hasked

theorem doMeasure_keepsShown (p : List Byte) : KeepsShown (doMeasure p) := by
  refine onChannel_keepsShown fun i c => .of_planes fun s => ?_
  split
  · rw [State.pick_planes]
    exact s.measure_planes i true
  · rw [State.pick_planes]
    exact s.measure_planes i false

theorem doResume_keepsShown : KeepsShown fun s => (doMode .run s).pick :=
  .of_planes fun s => (doMode .run s).pick_planes

theorem doSetCurve_keepsShown (p : List Byte) : KeepsShown (doSetCurve p) := by
  refine onChannel_keepsShown fun i c => .of_planes fun s => ?_
  split
  · exact State.markAll_planes _ _
  · rfl

theorem doSetLimits_keepsShown (p : List Byte) : KeepsShown (doSetLimits p) := by
  refine onChannel_keepsShown fun i c => .of_planes fun s => ?_
  split
  · exact State.markAll_planes _ _
  · split
    · exact State.markAll_planes _ _
    · rfl

theorem doSetStaleLimit_keepsShown (p : List Byte) : KeepsShown (doSetStaleLimit p) :=
  onChannel_keepsShown fun _ _ => .of_planes fun _ => State.markAll_planes _ _

/-! ## Requests about fields -/

/-- A bind claims addresses and marks its field dirty; the render that draws it comes later (R104, R116). -/
theorem doBind_keepsShown (p : List Byte) : KeepsShown (doBind p) := by
  refine .of_planes fun s => ?_
  have hlist (f : FieldIx) (q : BindReq) (l : List Byte) : (s.bindList f q l).planes = s.planes := by
    unfold State.bindList
    split
    · rfl
    · dsimp only
      split
      · rfl
      · split
        · rfl
        · exact State.markDirty_planes _ f
  unfold doBind
  split
  · rfl
  · split
    · rfl
    · split
      · rfl
      · split
        · rfl
        · exact hlist _ _ _

theorem doEdit_keepsShown (p : List Byte) : KeepsShown (doEdit p) := by
  intro s hs
  unfold doEdit
  split
  · exact hs
  · refine onField_keepsShown (fun f d => .of_planes fun s => ?_) s hs
    unfold doEditAccepted
    split
    · rfl
    · split
      · exact State.markDirty_planes _ f
      · rfl

theorem doRetarget_keepsShown (p : List Byte) : KeepsShown (doRetarget p) := by
  intro s hs
  unfold doRetarget
  split
  · exact hs
  · refine onField_keepsShown (fun f d => .of_planes fun s => ?_) s hs
    split
    · rfl
    · split
      · rfl
      · exact State.markDirty_planes _ f

/-- A field's retirement turns its segments OFF in the pending plane and sets the changed mark (R107). -/
theorem doRetireField_keepsShown (p : List Byte) : KeepsShown (doRetireField p) :=
  onField_keepsShown fun _ _ _ _ => .of_changed rfl

theorem doReadOwner_keepsShown (p : List Byte) : KeepsShown (doReadOwner p) := by
  refine .of_planes fun s => ?_
  unfold doReadOwner
  split
  · rfl
  · split <;> rfl

theorem doSetFieldValue_keepsShown (p : List Byte) : KeepsShown (doSetFieldValue p) := by
  refine onField_keepsShown fun f d => .of_planes fun s => ?_
  dsimp only
  split
  · rfl
  · split
    · rfl
    · split
      · rfl
      · exact State.markDirty_planes _ f

/-! ## Requests about the glass and the attention set, RESTART and CANCEL -/

theorem doSetGlass_keepsShown (p : List Byte) : KeepsShown (doSetGlass p) := by
  refine .of_planes fun s => ?_
  unfold doSetGlass
  split
  · rfl
  · split
    · rfl
    · split <;> rfl

theorem doHold_keepsShown (p : List Byte) : KeepsShown (doHold p) := by
  refine .of_planes fun s => ?_
  unfold doHold
  split <;> rfl

theorem doRelease_keepsShown : KeepsShown doRelease := by
  refine .of_planes fun s => ?_
  unfold doRelease
  split <;> rfl

theorem doReadPlane_keepsShown (p : List Byte) : KeepsShown (doReadPlane p) := by
  refine .of_planes fun s => ?_
  unfold doReadPlane
  split
  · rfl
  · split <;> rfl

theorem doAck_keepsShown (p : List Byte) : KeepsShown (doAck p) := by
  refine .of_planes fun s => ?_
  unfold doAck
  split <;> rfl

theorem doSetMask_keepsShown (p : List Byte) : KeepsShown (doSetMask p) := by
  refine .of_planes fun s => ?_
  unfold doSetMask
  split <;> rfl

/-- RESTART darkens both planes (R182). -/
theorem doRestart_keepsShown : KeepsShown doRestart := fun _ _ => .of_eq rfl

theorem State.cancelMeasure_planes (s : State) (i : Slot) : (s.cancelMeasure i).planes = s.planes := by
  unfold State.cancelMeasure
  split
  · rfl
  · split
    · rfl
    · split
      · exact s.onSched_planes i _
      · have hcleared := s.onSched_planes i fun c => { c with oneShot := false, notice := false }
        dsimp only
        split
        · exact hcleared
        · exact (State.onSched_planes _ i _).trans hcleared

theorem State.cancelWaiting_planes (s : State) : s.cancelWaiting.planes = s.planes := by
  unfold State.cancelWaiting
  split
  · rw [State.pick_planes]
    exact s.cancelMeasure_planes _
  · rfl
  · rfl
  · rfl

/-! ## The engine's events -/

theorem State.countOne_planes (s : State) (v : Conversion) : (s.countOne v).planes = s.planes := by
  unfold State.countOne
  split
  · exact s.complete_planes _ _
  · rfl

theorem State.periodEdge_planes (s : State) (v : Conversion) : (s.periodEdge v).planes = s.planes := by
  unfold State.periodEdge
  split
  · split
    · exact s.complete_planes _ _
    · rfl
  · rfl

theorem State.sensorEdge_planes (s : State) : s.sensorEdge.planes = s.planes := by
  unfold State.sensorEdge
  split
  · rfl
  · split
    · rfl
    · exact s.countOne_planes _
    · exact s.periodEdge_planes _

theorem State.fastPeriod_planes (s : State) : s.fastPeriod.planes = s.planes := by
  unfold State.fastPeriod
  split
  · rfl
  · split
    · exact s.countOne_planes _
    · rfl

theorem State.gateExpiry_planes (s : State) : s.gateExpiry.planes = s.planes := by
  unfold State.gateExpiry
  split
  · rfl
  · split
    · exact s.complete_planes _ _
    · rfl

theorem State.edgeExpiry_planes (s : State) : s.edgeExpiry.planes = s.planes := by
  unfold State.edgeExpiry
  split
  · rfl
  · exact s.complete_planes _ _

theorem State.counterOverflow_planes (s : State) : s.counterOverflow.planes = s.planes := by
  unfold State.counterOverflow
  split
  · rfl
  · split
    · exact s.complete_planes _ _
    · rfl

/-! ## The clock's events -/

/-- A base tick draws nothing at any of its owners. -/
theorem State.tick_planes (s : State) (o : TickOwner) : (s.tick o).planes = s.planes := by
  cases o with
  | interval i =>
    obtain ⟨_, _, _, _, e⟩ := s.tickInterval_frame i
    exact (congrArg State.planes e).trans rfl
  | age i =>
    obtain ⟨_, _, _, e⟩ := s.tickAge_frame i
    exact (congrArg State.planes e).trans rfl
  | blink rate =>
    exact (congrArg State.planes (s.tickBlink_frame rate)).trans rfl
  | hold =>
    obtain ⟨_, _, e⟩ := s.tickHold_frame
    exact (congrArg State.planes e).trans rfl
  | restart =>
    refine (congrArg State.planes s.tickRestart_eq).trans ?_
    split <;> rfl

theorem State.ticks_planes (s : State) (os : List TickOwner) : (os.foldl State.tick s).planes = s.planes := by
  induction os generalizing s with
  | nil => rfl
  | cons o rest ih => exact (ih (s.tick o)).trans (s.tick_planes o)

theorem State.baseTick_planes (s : State) : s.baseTick.planes = s.planes := by
  unfold State.baseTick
  split
  · rfl
  · exact s.ticks_planes _

theorem State.expire_planes (s : State) (o : TickOwner) : (s.expire o).planes = s.planes := by
  unfold State.expire
  split
  · rfl
  · split
    · rfl
    · split
      · exact s.tick_planes o
      · rfl

theorem State.slowPeriod_planes (s : State) : s.slowPeriod.planes = s.planes := by
  unfold State.slowPeriod
  split <;> rfl

theorem State.release_planes (s : State) (xsel : Bool) : (s.release xsel).planes = s.planes := by
  unfold State.release
  split <;> rfl

theorem State.initEnd_planes (s : State) : s.initEnd.planes = s.planes := by
  unfold State.initEnd
  split <;> rfl

theorem State.clocked_planes (s : State) (n : Nat) : (s.clocked n).planes = s.planes := by
  unfold State.clocked
  split
  · split
    · split <;> rfl
    · rfl
  · rfl
  · rfl

/-- A reset darkens both planes (R180). -/
theorem State.resetTo_shownLaw (s : State) (r : RestartReason) : ShownLaw (s.resetTo r) := .of_eq rfl

/-! ## The render and the frame end -/

/-- A render that draws a field sets the changed mark (R116). -/
theorem State.render_keepsShown : KeepsShown State.render := by
  intro s hs
  unfold State.render
  split
  · exact hs
  · dsimp only
    split
    · exact hs
    · exact .of_changed rfl

theorem State.changeGeometry_plane (s : State) (new : Duty) :
    (s.changeGeometry new).re.plane = changeDuty s.gs.settings.duty new .off s.re.plane := rfl

theorem State.changeGeometry_changed (s : State) (new : Duty) :
    (s.changeGeometry new).re.changed = s.re.changed := by
  simp only [State.changeGeometry, State.setGs_re, State.setRe_re]

theorem State.changeGeometry_shown (s : State) (new : Duty) :
    (s.changeGeometry new).gs.shown = changeDuty s.gs.settings.duty new .off s.gs.shown := rfl

/-- A change of geometry does the same to both planes and leaves the mark (R137). -/
theorem State.changeGeometry_keepsShown (new : Duty) : KeepsShown fun s => s.changeGeometry new := by
  intro s hs hclear
  rw [State.changeGeometry_changed] at hclear
  rw [State.changeGeometry_shown, State.changeGeometry_plane, hs hclear]

/-- New settings change the planes by their geometry alone (R137). -/
theorem State.applySettings_keepsShown : KeepsShown State.applySettings := by
  intro s hs
  unfold State.applySettings
  split
  · exact hs
  · next g _ =>
    have hgeometry : ShownLaw (if g.duty = s.gs.settings.duty then s else s.changeGeometry g.duty) := by
      split
      · exact hs
      · exact State.changeGeometry_keepsShown _ s hs
    exact hgeometry.of_planes ((State.endWait_planes _ _ _ _).trans (State.setGs_planes rfl))

/-- A commit clears the mark where it copies the pending plane, and else leaves mark and planes (R138). -/
theorem State.commit_keepsShown : KeepsShown State.commit := by
  intro s hs
  unfold State.commit
  split
  · exact .of_eq rfl
  · exact hs

theorem State.frameEnd_keepsShown : KeepsShown State.frameEnd := by
  intro s hs
  unfold State.frameEnd
  split
  · exact hs
  · exact State.commit_keepsShown _ (State.applySettings_keepsShown s hs)

/-! ## What a command is to keep, and commands of the port and of the reset line -/

/-- A command keeps the law of R134: what it leaves of a state that meets the law meets it. -/
def CommandKeepsShown (run : State → Host.Outcome State Fault Refusal) : Prop :=
  ∀ s t : State, ShownLaw s → run s = .next t → ShownLaw t

/-- A command that is an operation on the state keeps the law when the operation does. -/
theorem CommandKeepsShown.next {f : State → State} (h : KeepsShown f) : CommandKeepsShown fun s => .next (f s) := by
  intro s t hs hnext
  obtain rfl : f s = t := Host.Outcome.next.inj hnext
  exact h s hs

/-- A frame answered at once, which comes only where its condition holds (R166, R167). -/
theorem frameRefused_keepsShown (b : Bool) (code : ResultCode) :
    KeepsShown fun s => if b then commandFrame (fun s => s.respond code []) s else s := by
  intro s hs
  dsimp only
  split
  · exact commandFrame_keepsShown (act := fun s => s.respond code []) (.of_planes fun _ => rfl) s hs
  · exact hs

theorem execCommandDropped_keepsShown : CommandKeepsShown execCommandDropped := by
  refine .next fun s hs => ?_
  have hframe : ShownLaw (commandFrame id s) := commandFrame_keepsShown (fun _ => id) s hs
  split
  · exact hframe
  · exact hframe
  · split
    · exact hframe
    · exact hs
  · split
    · exact hframe
    · exact hs

theorem execFetch_keepsShown (part : FetchPart) : CommandKeepsShown fun s => execFetch s part := by
  refine .next (.of_planes fun s => ?_)
  cases part with
  | falls => rfl
  | clocked n => exact s.clocked_planes n
  | poll => rfl
  | reads n => rfl

theorem execCancel_keepsShown : CommandKeepsShown execCancel := by
  refine .next (.of_planes fun s => ?_)
  split
  · rfl
  · exact State.cancelWaiting_planes _

theorem execRstnAsserted_keepsShown : CommandKeepsShown execRstnAsserted := by
  refine .next fun s _ => ?_
  split
  · exact s.resetTo_shownLaw _
  · exact s.resetTo_shownLaw _

/-! ## Commands and steps -/

/-- Every command keeps the law. -/
theorem exec_keepsShown (c : Instr) : CommandKeepsShown (exec c) := by
  cases c with
  | readStatus _ => exact .next (hostRequest_keepsShown (.of_planes fun _ => rfl))
  | restart _ => exact .next (hostRequest_keepsShown doRestart_keepsShown)
  | defineChannel p => exact .next (hostRequest_keepsShown (doDefine_keepsShown p))
  | modifyChannel p => exact .next (hostRequest_keepsShown (doModify_keepsShown p))
  | retireChannel p => exact .next (hostRequest_keepsShown (doRetire_keepsShown p))
  | readChannel _ =>
    exact .next (hostRequest_keepsShown (onChannel_keepsShown fun _ _ => .of_planes fun _ => rfl))
  | findChannel p => exact .next (hostRequest_keepsShown (doFind_keepsShown p))
  | startChannel p => exact .next (hostRequest_keepsShown (doStart_keepsShown p))
  | suspendChannel p => exact .next (hostRequest_keepsShown (doSuspend_keepsShown p))
  | measureNow p => exact .next (hostRequest_keepsShown (doMeasure_keepsShown p))
  | pauseSchedule _ => exact .next (hostRequest_keepsShown (.of_planes fun _ => rfl))
  | resumeSchedule _ => exact .next (hostRequest_keepsShown doResume_keepsShown)
  | setCurve p => exact .next (hostRequest_keepsShown (doSetCurve_keepsShown p))
  | setLimits p => exact .next (hostRequest_keepsShown (doSetLimits_keepsShown p))
  | setStaleLimit p => exact .next (hostRequest_keepsShown (doSetStaleLimit_keepsShown p))
  | bindField p => exact .next (hostRequest_keepsShown (doBind_keepsShown p))
  | editField p => exact .next (hostRequest_keepsShown (doEdit_keepsShown p))
  | retargetField p => exact .next (hostRequest_keepsShown (doRetarget_keepsShown p))
  | retireField p => exact .next (hostRequest_keepsShown (doRetireField_keepsShown p))
  | readField _ =>
    exact .next (hostRequest_keepsShown (onField_keepsShown fun _ _ => .of_planes fun _ => rfl))
  | readOwner p => exact .next (hostRequest_keepsShown (doReadOwner_keepsShown p))
  | setFieldValue p => exact .next (hostRequest_keepsShown (doSetFieldValue_keepsShown p))
  | setGlass p => exact .next (hostRequest_keepsShown (doSetGlass_keepsShown p))
  | holdDisplay p => exact .next (hostRequest_keepsShown (doHold_keepsShown p))
  | releaseDisplay _ => exact .next (hostRequest_keepsShown doRelease_keepsShown)
  | readPlane p => exact .next (hostRequest_keepsShown (doReadPlane_keepsShown p))
  | readAttention _ => exact .next (hostRequest_keepsShown (.of_planes fun _ => rfl))
  | ackAttention p => exact .next (hostRequest_keepsShown (doAck_keepsShown p))
  | setAttentionMask p => exact .next (hostRequest_keepsShown (doSetMask_keepsShown p))
  | frameError _ => exact .next (frameRefused_keepsShown _ .badFrame)
  | unknownCommand _ _ => exact .next (frameRefused_keepsShown _ .unknownCommand)
  | commandDropped => exact execCommandDropped_keepsShown
  | fetch part => exact execFetch_keepsShown part
  | cancel => exact execCancel_keepsShown
  | powerOnReset => exact .next (fun s _ => s.resetTo_shownLaw _)
  | rstnAsserted => exact execRstnAsserted_keepsShown
  | resetRelease xsel => exact .next (.of_planes fun s => s.release_planes xsel)
  | initialisationEnd => exact .next (.of_planes State.initEnd_planes)
  | restartEnd => exact .next (.of_planes fun s => s.expire_planes _)
  | baseTick => exact .next (.of_planes State.baseTick_planes)
  | intervalExpiry _ => exact .next (.of_planes fun s => s.expire_planes _)
  | staleLimitExpiry _ => exact .next (.of_planes fun s => s.expire_planes _)
  | holdExpiry => exact .next (.of_planes fun s => s.expire_planes _)
  | blinkToggle _ => exact .next (.of_planes fun s => s.expire_planes _)
  | frameEnd => exact .next State.frameEnd_keepsShown
  | pick => exact .next (.of_planes State.pick_planes)
  | sensorEdge => exact .next (.of_planes State.sensorEdge_planes)
  | gateExpiry => exact .next (.of_planes State.gateExpiry_planes)
  | edgeTimerExpiry => exact .next (.of_planes State.edgeExpiry_planes)
  | counterOverflow => exact .next (.of_planes State.counterOverflow_planes)
  | render => exact .next State.render_keepsShown
  | fastClockPeriod => exact .next (.of_planes State.fastPeriod_planes)

/-- The part left to itself runs its own next event or lets one slow-clock period pass. -/
theorem idle_keepsShown : CommandKeepsShown idle := by
  intro s t hs h
  unfold idle at h
  split at h
  · exact CommandKeepsShown.next (.of_planes State.slowPeriod_planes) s t hs h
  · exact exec_keepsShown _ s t hs h

/-- Settles O54: a step leaves the part to itself, or runs a command behind the taking of it from the queue. -/
theorem stepKeepsShownLaw : Obligations.StepKeepsShownLaw := by
  intro s t hs h
  unfold step at h
  split at h
  · exact idle_keepsShown s t hs h
  · next rest _ => exact exec_keepsShown _ (s.setPending rest) t hs h

end Sys2Proof.Machine

/-! SUPPORT. The requests' effects in one form: what each operation that a request runs leaves of the state, as one record
update, and what a pick leaves of the records. -/

namespace Sys2Proof.Machine

/-! ## Records read behind a write -/

/-- The channels of a state whose table has one record written. -/
theorem State.channel_tableWith {s t : State} {i : Slot} {c : Channel} (h : t.ct = s.tableWith i c) (j : Slot) :
    t.channel j = if j = i then some c else s.channel j := by
  have e : t.channel j = (s.putChannel i c).channel j := by unfold State.channel; rw [h]; rfl
  rw [e, State.putChannel_channel]

theorem State.channel_tableWith_self {s t : State} {i : Slot} {c : Channel} (h : t.ct = s.tableWith i c) :
    t.channel i = some c := by
  rw [State.channel_tableWith h, if_pos rfl]

theorem State.channel_tableWith_ne {s t : State} {i j : Slot} {c : Channel} (h : t.ct = s.tableWith i c) (hj : j ≠ i) :
    t.channel j = s.channel j := by
  rw [State.channel_tableWith h, if_neg hj]

/-- A part of the records that a write of one record leaves as it was. -/
theorem State.channel_map_tableWith {α : Type} {s t : State} {i : Slot} {c d : Channel} (g : Channel → α)
    (h : t.ct = s.tableWith i d) (hc : s.channel i = some c) (hg : g d = g c) (j : Slot) :
    (t.channel j).map g = (s.channel j).map g := by
  rw [State.channel_tableWith h]
  split
  · next e => rw [e, hc]; exact congrArg some hg
  · rfl

/-- A write of one record leaves every generation. -/
theorem State.gen_tableWith {s t : State} {i : Slot} {c : Channel} (h : t.ct = s.tableWith i c) (j : Slot) :
    t.ct.slots[j].gen = s.ct.slots[j].gen := by
  have e : t.ct.slots[j].gen = (s.putChannel i c).ct.slots[j].gen := by rw [h]; rfl
  rw [e, State.putChannel_gen]

/-- The fields of a state whose table has one record written. -/
theorem State.field_fieldsWith {s t : State} {f : FieldIx} {d : Field} (h : t.ft.slots = (s.fieldsWith f d).slots)
    (k : FieldIx) : t.field k = if k = f then some d else s.field k := by
  have e : t.field k = (s.putField f d).field k := by unfold State.field; rw [h]; rfl
  rw [e, State.putField_field]

/-! ## The pick and the host port -/

/-- A pick neither reads nor writes the host port. -/
theorem State.pick_setHp (s : State) (hp : HostPort) :
    ({ s with hp := hp } : State).pick = { s.pick with hp := hp } := by
  unfold State.pick
  change (match s.picked with
    | none => _
    | some h => match s.channel h with
      | none => _
      | some c => _) = _
  cases s.picked with
  | none => rfl
  | some h =>
    change (match s.channel h with
      | none => _
      | some c => _) = ({ (match s.channel h with
      | none => s
      | some c => s.consider h c) with hp := hp } : State)
    cases hc : s.channel h with
    | none => rfl
    | some c =>
      change ({ s with hp := hp } : State).consider h c = { s.consider h c with hp := hp }
      unfold State.consider
      cases c.defn.reference with
      | none => rfl
      | some l =>
        change (match s.channel l.slot with
          | none => _
          | some r => _) = ({ (match s.channel l.slot with
          | none => s.startChannel h c
          | some r => _) with hp := hp } : State)
        cases s.channel l.slot with
        | none => rfl
        | some r =>
          dsimp only
          split
          · rfl
          · unfold State.chain State.onSched State.onRecord
            change (((match s.channel h with
              | none => _
              | some c => _ : State).toHead h).startChannel _ _) = _
            rw [hc]
            rfl

/-- A part of the records without their ref-tried marks is as before a pick (R49, R51). -/
theorem State.pick_channel_map {α : Type} (g : Channel → α) (hg : ∀ c, g c.unmarked = g c) (s : State) (j : Slot) :
    (s.pick.channel j).map g = (s.channel j).map g := by
  have e : g = g ∘ Channel.unmarked := funext fun c => (hg c).symm
  rw [e, ← Option.map_map, ← Option.map_map, s.pick_unmarked]

/-- A pick leaves every generation. -/
theorem State.pick_gen (s : State) (j : Slot) : s.pick.ct.slots[j].gen = s.ct.slots[j].gen := by
  have start (s : State) (i : Slot) (c : Channel) : (s.startChannel i c).ct.slots[j].gen = s.ct.slots[j].gen := by
    rw [State.startChannel_eq]
    exact State.gen_tableWith (s := s) rfl j
  unfold State.pick
  split
  · rfl
  · split
    · rfl
    · next h _ _ c hc =>
      unfold State.consider
      split
      · exact start s h c
      · split
        · exact start s h c
        · split
          · exact start s h c
          · unfold State.chain
            rw [start, State.onSched_eq _ hc]
            exact State.gen_tableWith (s := s) rfl j

/-! ## The cases of a pick -/

/-- A pick does nothing, starts the channel it considers, or chains the reference of that channel (R48, R49, R51). -/
theorem State.pick_cases (s : State) :
    (s.pick = s ∧ ∀ h, s.picked = some h → s.channel h = none) ∨
      (∃ h c, s.picked = some h ∧ s.channel h = some c ∧ s.pick = s.startChannel h c) ∨
      ∃ h c l r, s.picked = some h ∧ s.channel h = some c ∧ c.defn.reference = some l ∧ s.channel l.slot = some r ∧
        r.state ≠ .suspended ∧ s.pick = s.chain h l.slot r := by
  unfold State.pick
  cases hp : s.picked with
  | none => exact .inl ⟨rfl, by simp⟩
  | some h =>
    cases hc : s.channel h with
    | none => exact .inl ⟨by simp only [hc], by rintro _ ⟨⟩; exact hc⟩
    | some c =>
      simp only [hc, State.consider]
      have started {u : State} (e : u = s.startChannel h c) : ∃ h' c', some h = some h' ∧ s.channel h' = some c' ∧
          u = s.startChannel h' c' := ⟨h, c, rfl, hc, e⟩
      cases hl : c.defn.reference with
      | none => exact .inr (.inl (started rfl))
      | some l =>
        cases hr : s.channel l.slot with
        | none => exact .inr (.inl (started (by simp only [hr])))
        | some r =>
          simp only [hr]
          split
          · exact .inr (.inl (started rfl))
          · next hu => exact .inr (.inr ⟨h, c, l, r, rfl, hc, hl, hr, by simp_all, rfl⟩)

/-- A pick considers an entry of the due queue, and only with the CE IDLE (R48). -/
theorem State.picked_spec {s : State} {h : Slot} (hp : s.picked = some h) : s.ce.conv = none ∧ h ∈ s.ms.queue := by
  unfold State.picked at hp
  split at hp
  · cases hp
  · next hc => exact ⟨Option.not_isSome_iff_eq_none.1 hc, List.mem_of_find?_eq_some hp⟩

/-- The engine of a pick is as before, or has just taken a start (R48). -/
theorem State.pick_ce (s : State) : s.pick.ce = s.ce ∨ ∃ i d, s.pick.ce = startedEngine i d := by
  obtain ⟨e, -⟩ | ⟨h, c, -, -, e⟩ | ⟨h, c, l, r, -, -, -, -, -, e⟩ := s.pick_cases
  · exact .inl (by rw [e])
  · exact .inr ⟨h, c.defn, by rw [e, State.startChannel_eq]⟩
  · exact .inr ⟨l.slot, r.defn, by rw [e, State.chain, State.startChannel_eq]⟩

/-- A channel behind a pick is the one before it, but for its ref-tried mark. -/
theorem State.pick_channel {s : State} {j : Slot} {c : Channel} (hc : s.pick.channel j = some c) :
    ∃ d, s.channel j = some d ∧ d.unmarked = c.unmarked := by
  have := s.pick_unmarked j
  rw [hc] at this
  exact Option.map_eq_some_iff.1 this.symm

/-! ## Requests about channels -/

/-- What a successful MODIFY_CHANNEL leaves before its answer and its pick (R12, R13). -/
def State.modified (s : State) (i : Slot) (c : Channel) (q : DefReq) : State :=
  { s with
    ct := { slots := vput s.ct.slots i { gen := s.ct.slots[i].gen, occupant := some (c.modified q) }
            tags := vput s.ct.tags i (some q.tag)
            pins := vput (vput s.ct.pins c.defn.pin none) q.pin (some i) }
    ms := s.queueOf (s.ms.queue.erase i)
    ce := s.engineWithout i
    csu := s.clocksWithout i
    au := s.pairsRaised i false (c.result.limit ≠ .normal) (c.result.outcome ≠ .none) false
    re := s.dirtied (s.fieldsOf i) }

/-- The raises of QUALITY and then LIMIT are those of one event (R13, R150). -/
theorem State.pairsRaised_qualityLimit (s : State) (i : Slot) (l q : Bool) :
    (s.au.raiseIf i .quality q).raiseIf i .limit l = s.pairsRaised i false l q false := by
  cases l with
  | false => exact s.pairsRaised_eq i false false q false
  | true =>
    cases q with
    | false => exact s.pairsRaised_eq i false true false false
    | true => simp [Attention.raiseIf, Attention.raise, State.pairsRaised, raisedIf, SlotPairs.raise]

theorem State.modifyChannel_eq (s : State) (i : Slot) (c : Channel) (q : DefReq) :
    s.modifyChannel i c q = s.modified i c q := by
  unfold State.modifyChannel State.modified
  rw [State.abandon_eq]
  dsimp only
  rw [State.markFields_eq, State.fieldsOf_congr (s := s)]
  · have raises := s.pairsRaised_qualityLimit i (c.result.limit ≠ .normal) (c.result.outcome ≠ .none)
    rw [← raises]
    rfl
  · rfl
  · exact s.putChannel_gen i i _

/-- What a successful RETIRE_CHANNEL leaves before its answer and its pick (R16, R108). -/
def State.retired (s : State) (i : Slot) (c : Channel) : State :=
  { s with
    ct := s.ct.freed i c.defn.pin
    ms := s.queueOf (s.ms.queue.erase i)
    ce := s.engineWithout i
    csu := s.clocksWithout i
    ft := { s.ft with slots := s.ft.slots.map (FieldSlot.detach i) }
    au := s.au.drop i
    re := s.dirtied (s.fieldsNaming i) }

theorem State.fieldsNaming_nodup (s : State) (i : Slot) : (s.fieldsNaming i).Nodup :=
  (List.nodup_finRange 24).filter _

theorem State.retireChannel_eq (s : State) (i : Slot) (c : Channel) : s.retireChannel i c = s.retired i c := by
  unfold State.retireChannel State.retired
  rw [State.abandon_eq]
  dsimp only
  unfold State.detach
  rw [State.markAll_eq _ (State.fieldsNaming_nodup _ i)]
  rfl

/-! ## Requests about the schedule -/

/-- What a START_CHANNEL leaves before its answer and its pick (R54). -/
def State.started (s : State) (i : Slot) (c : Channel) : State :=
  { s with
    ct := s.tableWith i { c with state := .active, sched := { c.sched with countdown := some c.defn.interval } }
    ms := s.queueOf (if s.queued i = true ∨ s.converting i = true then s.ms.queue else s.ms.queue ++ [i]) }

theorem State.started_eq (s : State) (i : Slot) (c : Channel) :
    (s.putChannel i { c with state := .active
                             sched := { c.sched with countdown := some c.defn.interval } }).joinTail i
      = s.started i c := by
  rw [State.joinTail_eq]
  rfl

/-- What a SUSPEND_CHANNEL leaves before its answer and its pick (R55). -/
def State.suspended (s : State) (i : Slot) (c : Channel) : State :=
  { s with
    ct := s.tableWith i { c with state := .suspended, sched := Schedule.clear }
    ms := s.queueOf (s.ms.queue.erase i)
    ce := s.engineWithout i
    csu := s.clocksWithout i }

theorem State.suspendChannel_eq (s : State) (i : Slot) (c : Channel) : s.suspendChannel i c = s.suspended i c := by
  unfold State.suspendChannel
  rw [State.abandon_eq]
  rfl

/-- What a MEASURE_NOW leaves before its answer and its pick (R57). -/
def State.measured (s : State) (i : Slot) (c : Channel) (wait : Bool) : State :=
  { s with
    ct := s.tableWith i { c with sched := c.sched.asked wait }
    ms := s.queueOf (if s.converting i = true then s.ms.queue else i :: s.ms.queue.erase i) }

theorem State.measure_eq {s : State} {i : Slot} {c : Channel} (h : s.channel i = some c) (wait : Bool) :
    s.measure i wait = s.measured i c wait := by
  unfold State.measure
  rw [State.onSched_eq _ h]
  change (if s.converting i then _ else _) = _
  unfold State.measured
  split <;> rfl

/-- What the cancellation of a waiting MEASURE_NOW leaves before its answer and its pick (R59). -/
def State.withdrawn (s : State) (i : Slot) (c : Channel) : State :=
  if c.sched.unwaited then s
  else if s.converting i then { s with ct := s.tableWith i { c with sched := { c.sched with notice := false } } }
  else if c.state = .active then
    { s with ct := s.tableWith i { c with sched := { c.sched with oneShot := false, notice := false } } }
  else
    { s with
      ct := s.tableWith i { c with sched := { c.sched with oneShot := false, notice := false, refTried := false } }
      ms := s.queueOf (s.ms.queue.erase i) }

theorem State.cancelMeasure_eq {s : State} {i : Slot} {c : Channel} (h : s.channel i = some c) :
    s.cancelMeasure i = s.withdrawn i c := by
  unfold State.cancelMeasure State.withdrawn
  rw [h]
  dsimp only
  split
  · rfl
  · split
    · exact State.onSched_eq _ h
    · rw [State.onSched_eq _ h]
      split
      · rfl
      · unfold State.withdraw
        rw [State.onSched_eq (c := { c with sched := { c.sched with oneShot := false, notice := false } })]
        · simp only [State.tableWith, State.leaveQueue, State.setQueue, State.setMs, State.queueOf, vput_vput, vput_get,
            if_true]
        · exact State.channel_tableWith_self (s := s) rfl

/-- What the cancellation leaves differs in the channel's scheduling part and the due queue at most. -/
theorem State.withdrawn_frame (s : State) (i : Slot) (c : Channel) :
    ∃ ct q, s.withdrawn i c = { s with ct := ct, ms := s.queueOf q } ∧
      (ct = s.ct ∨ ∃ x, ct = s.tableWith i { c with sched := x }) := by
  unfold State.withdrawn
  split
  · exact ⟨s.ct, s.ms.queue, rfl, .inl rfl⟩
  · split
    · exact ⟨_, s.ms.queue, rfl, .inr ⟨_, rfl⟩⟩
    · split
      · exact ⟨_, s.ms.queue, rfl, .inr ⟨_, rfl⟩⟩
      · exact ⟨_, _, rfl, .inr ⟨_, rfl⟩⟩

/-- The cancellation of a waiting MEASURE_NOW changes nothing where its channel is gone. -/
theorem State.cancelMeasure_none {s : State} {i : Slot} (h : s.channel i = none) : s.cancelMeasure i = s := by
  simp only [State.cancelMeasure, h]

/-! ## Requests about fields -/

/-- What a successful BIND_FIELD leaves before its answer (R104). -/
def State.bound (s : State) (f : FieldIx) (d : Field) : State :=
  { s with
    ft := { slots := (s.fieldsWith f d).slots, owners := setOwners s.ft.owners d.segs (some f) }
    re := s.dirtied [f] }

theorem State.bindField_eq (s : State) (f : FieldIx) (d : Field) : s.bindField f d = s.bound f d := by
  unfold State.bindField
  dsimp only
  rw [State.markDirty_eq]
  rfl

/-- A record put into a field slot and marked dirty. -/
theorem State.putField_markDirty (s : State) (f : FieldIx) (d : Field) :
    (s.putField f d).markDirty f = { s with ft := s.fieldsWith f d, re := s.dirtied [f] } := by
  rw [State.markDirty_eq]
  rfl

/-! ## The settings of the glass -/

/-- A table of the segment addresses carried from one duty to another: as it is when the duty stays (R102, R137). -/
def carryDuty {α : Type} (old new : Duty) (empty : α) (v : Vector α 132) : Vector α 132 :=
  if new = old then v else changeDuty old new empty v

theorem carryDuty_get {α : Type} (old new : Duty) (empty : α) (v : Vector α 132) (a : SegAddr) :
    (carryDuty old new empty v)[a] =
      if new = old ∨ (inGeometry old a = true ∧ inGeometry new a = true) then v[a] else empty := by
  unfold carryDuty
  split
  · next h => simp [h]
  · next h =>
    have (p : Prop) : (new = old ∨ p) ↔ p := by simp [h]
    simp only [this]
    simp [changeDuty]

/-- The end of a waiting request (R168). -/
theorem State.endWait_eq (s : State) (w : Waiting) (code : ResultCode) (p : List Byte) :
    s.endWait w code p = { s with hp := if s.hp.waiting = some w then s.ended code p else s.hp } := by
  unfold State.endWait
  split <;> rfl

theorem State.applySettings_none {s : State} (h : s.gs.pendingSettings = none) : s.applySettings = s := by
  simp only [State.applySettings, h]

/-- What the application of pending settings leaves (R137). -/
theorem State.applySettings_some {s : State} {g : GlassSettings} (h : s.gs.pendingSettings = some g) :
    s.applySettings = { s with
      ft := { s.ft with owners := carryDuty s.gs.settings.duty g.duty none s.ft.owners }
      re := { s.re with plane := carryDuty s.gs.settings.duty g.duty .off s.re.plane }
      gs := { s.gs with
        settings := g
        pendingSettings := none
        shown := carryDuty s.gs.settings.duty g.duty .off s.gs.shown }
      hp := if s.hp.waiting = some .setGlass then s.ended .ok [] else s.hp } := by
  simp only [State.applySettings, h, carryDuty, State.endWait_eq]
  by_cases hd : g.duty = s.gs.settings.duty
  · simp only [if_pos hd]; rfl
  · simp only [if_neg hd, State.changeGeometry, State.setGs, State.setFt, State.setRe, State.ended]

/-- The settings of the glass are apart from the Channel Table. -/
theorem State.applySettings_ct (s : State) : s.applySettings.ct = s.ct := by
  cases h : s.gs.pendingSettings with
  | none => rw [State.applySettings_none h]
  | some g => rw [State.applySettings_some h]

end Sys2Proof.Machine

/-! SUPPORT. One channel's record and its laws (R1, R63, R70, R81, R82, R86): what a well-formed definition gives, where
the values of a curve and the moves of the limits lie, and that every change of a record keeps its laws. -/

namespace Sys2Proof.Machine

/-- The laws that RecordLaw asks of one channel, which speak of all of its record but state and scheduling part. -/
def Channel.Law (c : Channel) : Prop :=
  c.defn.Law ∧ c.ResultLaw ∧ c.result.RangeLaw ∧ c.FreshnessLaw ∧ c.LimitLaw ∧ c.CurveLaw

/-! ## Words on the wire -/

theorem word16_lt (p : List Byte) (k : Nat) : word16 p k < 65536 := by
  have h1 := (byteAt p k).isLt
  have h2 := (byteAt p (k + 1)).isLt
  unfold word16
  omega

/-- A mantissa on the wire is in its range (R176). -/
theorem mantissaAt_inMantissa (p : List Byte) (k : Nat) : inMantissa (mantissaAt p k) := by
  have h := word16_lt p k
  unfold mantissaAt signed16
  split <;> constructor <;> omega

/-- A reference on the wire has its ref max age in range (R1). -/
theorem decodeRef_maxAge {b : Byte} {m : Nat} {ref : Option RefReq} (h : decodeRef b m = some ref) :
    ∀ r ∈ ref, 1 ≤ r.maxAge ∧ r.maxAge ≤ 16383 := by
  unfold decodeRef at h
  split at h
  · cases h; simp
  · split at h
    · cases h
    · split at h
      · next hm => cases h; simpa using hm
      · cases h

/-- A well-formed definition keeps the ranges of a definition (R1). -/
theorem decodeDef_law {p : List Byte} {k : Nat} {q : DefReq} (h : decodeDef p k = some q) : q.toDef.Law := by
  unfold decodeDef at h
  split at h
  · next m ref notify _ hr _ =>
    split at h
    · next hw =>
      obtain ⟨htag, -, hlen, ht, ht', hi, hi'⟩ := hw
      have hs := (byteAt p (k + 8)).isLt
      cases h
      refine ⟨htag, hlen, by simp only [DefReq.toDef]; omega, ht, ht', hi, hi', fun l hl => ?_⟩
      obtain ⟨r, hr', rfl⟩ := Option.map_eq_some_iff.1 hl
      exact decodeRef_maxAge hr r hr'
    · cases h
  · cases h

/-! ## The values of a curve -/

/-- An interpolation stays between the two y values (R71). -/
theorem interpolate_between {a b : Breakpoint} {x : Nat} (h1 : a.x < x) (h2 : x < b.x) :
    min a.y b.y ≤ interpolate a b x ∧ interpolate a b x ≤ max a.y b.y := by
  obtain ⟨hn, -⟩ := roundAway_nearest (a.y * (b.x - a.x : Nat) + (b.y - a.y) * (x - a.x : Nat)) (den := b.x - a.x) (by omega)
  change 2 * (interpolate a b x * _ - _).natAbs ≤ _ at hn
  generalize interpolate a b x = v at *
  obtain ⟨d, rfl⟩ : ∃ d, x = a.x + d := ⟨x - a.x, by omega⟩
  obtain ⟨e, he⟩ : ∃ e, b.x = a.x + d + e := ⟨b.x - (a.x + d), by omega⟩
  have hw : b.x - a.x = d + e := by omega
  have hd : a.x + d - a.x = d := by omega
  rw [hw, hd] at hn
  have hd0 : (0 : Int) < d := by omega
  have he0 : (0 : Int) < e := by omega
  push_cast at hn
  have split : a.y * ((d : Int) + e) + (b.y - a.y) * d = a.y * e + b.y * d := by ring
  rw [split] at hn
  have hlo : 2 * (a.y * e + b.y * d - v * (d + e)) ≤ (d : Int) + e := by omega
  have hhi : 2 * (v * (d + e) - (a.y * e + b.y * d)) ≤ (d : Int) + e := by omega
  have lo1 : min a.y b.y * e ≤ a.y * e := Int.mul_le_mul_of_nonneg_right (min_le_left _ _) he0.le
  have lo2 : min a.y b.y * d ≤ b.y * d := Int.mul_le_mul_of_nonneg_right (min_le_right _ _) hd0.le
  have hi1 : a.y * e ≤ max a.y b.y * e := Int.mul_le_mul_of_nonneg_right (le_max_left _ _) he0.le
  have hi2 : b.y * d ≤ max a.y b.y * d := Int.mul_le_mul_of_nonneg_right (le_max_right _ _) hd0.le
  generalize min a.y b.y = lo at *
  generalize max a.y b.y = hi at *
  constructor <;> by_contra hc <;> nlinarith

/-- From a breakpoint at or below the input on, a curve answers GOOD or OVER (R71). -/
theorem applyFrom_outcome (a : Breakpoint) (rest : List Breakpoint) (x : Nat) :
    (applyFrom a rest x).1 = .good ∨ (applyFrom a rest x).1 = .over := by
  induction rest generalizing a with
  | nil => unfold applyFrom; split <;> simp
  | cons b more ih =>
    unfold applyFrom
    split
    · exact .inl rfl
    · split
      · exact .inl rfl
      · exact ih b

/-- A curve answers GOOD, UNDER or OVER (R71). -/
theorem Curve.apply_outcome (k : Curve) (x : Nat) :
    (k.apply x).1 = .good ∨ (k.apply x).1 = .under ∨ (k.apply x).1 = .over := by
  unfold Curve.apply
  split
  · exact .inl rfl
  · split
    · exact .inr (.inl rfl)
    · exact (applyFrom_outcome _ _ _).imp_right .inr

/-- From a breakpoint at or below the input on, a curve's value lies in the range of its y values (R71). -/
theorem applyFrom_inMantissa {a : Breakpoint} {rest : List Breakpoint} {x : Nat} (ha : a.x ≤ x)
    (h : ∀ b ∈ a :: rest, inMantissa b.y) : inMantissa (applyFrom a rest x).2 := by
  induction rest generalizing a with
  | nil =>
    have := h a (by simp)
    unfold applyFrom
    split <;> exact this
  | cons b more ih =>
    have hya := h a (by simp)
    have hyb := h b (by simp)
    unfold applyFrom
    split
    · exact hya
    · split
      · next hb =>
        have := interpolate_between (a := a) (b := b) (x := x) (by omega) hb
        unfold inMantissa at *
        dsimp only
        omega
      · exact ih (by omega) fun b hb => h b (List.mem_cons_of_mem _ hb)

/-- A curve's value lies in the range of its y values (R71). -/
theorem Curve.apply_inMantissa {k : Curve} (h : ∀ b ∈ k.points, inMantissa b.y) (x : Nat) :
    inMantissa (k.apply x).2 := by
  unfold Curve.apply
  split
  · exact ⟨by decide, by decide⟩
  · next a rest e =>
    rw [e] at h
    split
    · exact h a (by simp)
    · exact applyFrom_inMantissa (by omega) h

/-! ## Evaluations of the limits -/

@[simp] theorem Result.evaluate_outcome (r : Result) (l : Option Limits) : (r.evaluate l).outcome = r.outcome := by
  unfold Result.evaluate; split <;> rfl
@[simp] theorem Result.evaluate_raw (r : Result) (l : Option Limits) : (r.evaluate l).raw = r.raw := by
  unfold Result.evaluate; split <;> rfl
@[simp] theorem Result.evaluate_ratio (r : Result) (l : Option Limits) : (r.evaluate l).ratio = r.ratio := by
  unfold Result.evaluate; split <;> rfl
@[simp] theorem Result.evaluate_value (r : Result) (l : Option Limits) : (r.evaluate l).value = r.value := by
  unfold Result.evaluate; split <;> rfl
@[simp] theorem Result.evaluate_freshness (r : Result) (l : Option Limits) :
    (r.evaluate l).freshness = r.freshness := by
  unfold Result.evaluate; split <;> rfl
@[simp] theorem Result.evaluate_age (r : Result) (l : Option Limits) : (r.evaluate l).age = r.age := by
  unfold Result.evaluate; split <;> rfl
@[simp] theorem Result.evaluate_seq (r : Result) (l : Option Limits) : (r.evaluate l).seq = r.seq := by
  unfold Result.evaluate; split <;> rfl

/-- An evaluation of an absent value holds the limit state (R88). -/
theorem Result.evaluate_of_absent {r : Result} (h : r.value = none) (l : Option Limits) : r.evaluate l = r := by
  unfold Result.evaluate
  rw [h]

/-- A move enters or stays in HIGH only with a high bound (R86, R87). -/
theorem Limits.move_eq_high {l : Limits} {f : LimitState} {v : Int} (h : l.move f v = .high)
    (hf : f = .high → l.high.isSome = true) : l.high.isSome = true := by
  cases f with
  | high => exact hf rfl
  | normal =>
    rw [Limits.move_normal] at h
    split at h
    · next ha => obtain ⟨_, e, _⟩ := Limits.above_iff.1 ha; simp [e]
    · split at h <;> cases h
  | low =>
    change (if l.low.any _ then (if l.above v then LimitState.high else .normal) else .low) = .high at h
    split at h
    · split at h
      · next ha => obtain ⟨_, e, _⟩ := Limits.above_iff.1 ha; simp [e]
      · cases h
    · cases h

/-- A move enters or stays in LOW only with a low bound (R86, R87). -/
theorem Limits.move_eq_low {l : Limits} {f : LimitState} {v : Int} (h : l.move f v = .low)
    (hf : f = .low → l.low.isSome = true) : l.low.isSome = true := by
  cases f with
  | low => exact hf rfl
  | normal =>
    rw [Limits.move_normal] at h
    split at h
    · cases h
    · split at h
      · next hb => obtain ⟨_, e, _⟩ := Limits.below_iff.1 hb; simp [e]
      · cases h
  | high =>
    change (if l.high.any _ then (if l.below v then LimitState.low else .normal) else .high) = .low at h
    split at h
    · split at h
      · next hb => obtain ⟨_, e, _⟩ := Limits.below_iff.1 hb; simp [e]
      · cases h
    · cases h

/-- The limit state has its bound present (R86). -/
def LimitState.Within (x : LimitState) (l : Option Limits) : Prop :=
  (x = .high → ∃ k ∈ l, k.high.isSome = true) ∧ (x = .low → ∃ k ∈ l, k.low.isSome = true)

theorem LimitState.normal_within (l : Option Limits) : LimitState.Within .normal l := by
  constructor <;> intro h <;> cases h

/-- An evaluation keeps the limit state within the bounds that are present (R86, R87). -/
theorem Result.evaluate_within {r : Result} {l : Option Limits} (h : r.limit.Within l) :
    (r.evaluate l).limit.Within l := by
  unfold Result.evaluate
  split
  · exact h
  · exact LimitState.normal_within _
  · next l _ =>
    refine ⟨fun e => ⟨l, rfl, Limits.move_eq_high e fun hf => ?_⟩, fun e => ⟨l, rfl, Limits.move_eq_low e fun hf => ?_⟩⟩
    · obtain ⟨k, hk, hb⟩ := h.1 hf
      cases hk
      exact hb
    · obtain ⟨k, hk, hb⟩ := h.2 hf
      cases hk
      exact hb

/-- The limit law of a channel: its set valid and in range, and its limit state within the bounds that are present. -/
theorem Channel.limitLaw_iff {c : Channel} : c.LimitLaw ↔
    (∀ l ∈ c.limits, l.valid = true ∧ l.hysteresis ≤ 1000 ∧ (∀ b ∈ l.low, inMantissa b) ∧ ∀ h ∈ l.high, inMantissa h) ∧
      c.result.limit.Within c.limits := Iff.rfl

/-! ## Results -/

/-- The result law with an outcome of GOOD, UNDER or OVER (R63, R71, R72). -/
theorem Channel.resultLaw_judged {c : Channel}
    (h : c.result.outcome = .good ∨ c.result.outcome = .under ∨ c.result.outcome = .over) :
    c.ResultLaw ↔ c.result.raw.isSome = true ∧ c.result.ratio.isSome = c.defn.reference.isSome ∧
      match c.curve with
      | none => c.result.outcome = .good ∧ c.result.value = none
      | some k => ∃ x ∈ c.input, k.apply x = (c.result.outcome, c.result.value.getD 0) ∧ c.result.value.isSome = true := by
  unfold Channel.ResultLaw
  rcases h with h | h | h <;> rw [h] <;> exact Iff.rfl

/-- The result law with an outcome of NONE (R63). -/
theorem Channel.resultLaw_none {c : Channel} (h : c.result.outcome = .none) :
    c.ResultLaw ↔ c.result = Result.cleared c.result.seq := by
  unfold Channel.ResultLaw
  rw [h]

/-- A curve, or none, applied leaves GOOD, UNDER or OVER (R71, R72). -/
theorem Result.applyCurve_outcome (r : Result) (k : Option Curve) (x : Nat) :
    (r.applyCurve k x).outcome = .good ∨ (r.applyCurve k x).outcome = .under ∨ (r.applyCurve k x).outcome = .over := by
  cases k with
  | none => exact .inl rfl
  | some k => exact k.apply_outcome x

@[simp] theorem Result.applyCurve_raw (r : Result) (k : Option Curve) (x : Nat) : (r.applyCurve k x).raw = r.raw := by
  cases k <;> rfl
@[simp] theorem Result.applyCurve_ratio (r : Result) (k : Option Curve) (x : Nat) :
    (r.applyCurve k x).ratio = r.ratio := by
  cases k <;> rfl
@[simp] theorem Result.applyCurve_freshness (r : Result) (k : Option Curve) (x : Nat) :
    (r.applyCurve k x).freshness = r.freshness := by
  cases k <;> rfl
@[simp] theorem Result.applyCurve_age (r : Result) (k : Option Curve) (x : Nat) : (r.applyCurve k x).age = r.age := by
  cases k <;> rfl
@[simp] theorem Result.applyCurve_seq (r : Result) (k : Option Curve) (x : Nat) : (r.applyCurve k x).seq = r.seq := by
  cases k <;> rfl
@[simp] theorem Result.applyCurve_limit (r : Result) (k : Option Curve) (x : Nat) :
    (r.applyCurve k x).limit = r.limit := by
  cases k <;> rfl

/-- The value a curve in the laws of R70 gives is in range. -/
theorem Result.applyCurve_inMantissa {r : Result} {k : Option Curve} (h : ∀ c ∈ k, ∀ b ∈ c.points, inMantissa b.y)
    (x : Nat) : ∀ v ∈ (r.applyCurve k x).value, inMantissa v := by
  cases k with
  | none => intro v hv; cases hv
  | some k =>
    intro v hv
    cases hv
    exact Curve.apply_inMantissa (h k rfl) x

/-- A record whose result is its curve applied to its stored input, the limits then evaluated, keeps the result law. -/
theorem Channel.resultLaw_of_applyCurve {c : Channel} {r : Result} {x : Nat}
    (hr : c.result = (r.applyCurve c.curve x).evaluate c.limits) (hraw : r.raw.isSome = true)
    (hratio : r.ratio.isSome = c.defn.reference.isSome) (hin : c.input = some x) : c.ResultLaw := by
  have ho : c.result.outcome = (r.applyCurve c.curve x).outcome := by rw [hr, Result.evaluate_outcome]
  have hv : c.result.value = (r.applyCurve c.curve x).value := by rw [hr, Result.evaluate_value]
  rw [Channel.resultLaw_judged (by rw [ho]; exact r.applyCurve_outcome _ _), ho, hv]
  refine ⟨by simpa [hr] using hraw, by simpa [hr] using hratio, ?_⟩
  cases c.curve with
  | none => exact ⟨rfl, rfl⟩
  | some k => exact ⟨x, hin, rfl, rfl⟩

/-! ## Completions -/

/-- The result part from which the steps 2 to 6 of a completion start (R64). -/
def Channel.advanced (c : Channel) : Result :=
  { c.result with seq := (c.result.seq + 1) % 65536, age := some 0, freshness := some .fresh }

theorem Channel.completed_eq (c : Channel) (ref : Option Result) (e : Ending) :
    c.completed ref e = (c.advanced.judge c ref e).evaluate c.limits := rfl

/-- What the steps 2 to 6 of a completion can come to: an outcome without ratio and value, or a curve input with the curve
applied to it (R64 to R72). -/
theorem Result.judge_cases (r : Result) (c : Channel) (ref : Option Result) (e : Ending) :
    (∃ o raw, r.judge c ref e = { r with outcome := o, raw := raw, ratio := none, value := none } ∧
      ((o = .noSignal ∧ raw = none) ∨ (o = .overflow ∧ (raw = none ∨ ∃ n, e = .count n ∧ raw = some n)) ∨
        (o = .noReference ∧ ∃ n, e = .count n ∧ raw = some n))) ∨
    ∃ n ratio x, e = .count n ∧
      r.judge c ref e = ({ r with raw := some n, ratio := ratio } : Result).applyCurve c.curve x ∧
      ((c.defn.reference = none ∧ ratio = none ∧ x = n) ∨
        (c.defn.reference.isSome = true ∧ ratio = some x ∧ x ≤ 65535)) := by
  unfold Result.judge
  cases e with
  | noSignal => exact .inl ⟨_, _, rfl, .inl ⟨rfl, rfl⟩⟩
  | overflow => exact .inl ⟨_, _, rfl, .inr (.inl ⟨rfl, .inl rfl⟩)⟩
  | count n =>
    dsimp only
    split
    · next h => exact .inr ⟨n, none, n, rfl, rfl, .inl ⟨Option.isNone_iff_eq_none.1 h, rfl, rfl⟩⟩
    · next h =>
      have hs : c.defn.reference.isSome = true := by
        cases hc : c.defn.reference <;> simp_all
      split
      · exact .inl ⟨_, _, rfl, .inr (.inr ⟨rfl, n, rfl, rfl⟩)⟩
      · split
        · next hle => exact .inr ⟨n, _, _, rfl, rfl, .inr ⟨hs, rfl, hle⟩⟩
        · exact .inl ⟨_, _, rfl, .inr (.inl ⟨rfl, .inr ⟨n, rfl, rfl⟩⟩)⟩

/-- The raw count of an ending is one the counter holds (R32). -/
def Ending.InRange : Ending → Prop
  | .count n => n ≤ 16777215
  | _ => True

/-- A completion keeps the laws of the record (R63 to R72, R81, R86). -/
theorem Channel.Law.completed {c : Channel} {e : Ending} (h : c.Law) (he : e.InRange) (ref : Option Result) :
    ({ c with result := c.completed ref e } : Channel).Law := by
  obtain ⟨hdef, -, ⟨-, -, -, -, -⟩, ⟨hstale, -, -⟩, hlimit, hcurve⟩ := h
  obtain ⟨hset, hwithin⟩ := Channel.limitLaw_iff.1 hlimit
  have hseq : (c.result.seq + 1) % 65536 ≤ 65535 := by omega
  have hfresh (r : Result) (ha : r.age = some 0) (hf : r.freshness = some .fresh) (ho : r.outcome ≠ .none) :
      ({ c with result := r } : Channel).FreshnessLaw := by
    refine ⟨hstale, by simp [ha, ho], ?_⟩
    simp only [ha, hf, Option.map_some]
    rw [if_neg (by omega)]
  have hlim (r : Result) (hr : r.limit = c.result.limit) :
      ({ c with result := r.evaluate c.limits } : Channel).LimitLaw :=
    Channel.limitLaw_iff.2 ⟨hset, Result.evaluate_within (by rw [hr]; exact hwithin)⟩
  rw [Channel.completed_eq]
  obtain ⟨o, raw, hj, hcases⟩ | ⟨n, ratio, x, rfl, hj, hcases⟩ := c.advanced.judge_cases c ref e
  · rw [hj]
    have hraw : ∀ n ∈ raw, n ≤ 16777215 := by
      intro n hn
      rcases hcases with ⟨-, rfl⟩ | ⟨-, rfl | ⟨m, rfl, rfl⟩⟩ | ⟨-, m, rfl, rfl⟩ <;> cases hn <;> exact he
    have hnone : o ≠ .none := by rcases hcases with ⟨rfl, -⟩ | ⟨rfl, -⟩ | ⟨rfl, -⟩ <;> decide
    refine ⟨hdef, ?_, ⟨by simpa using hraw, by simp, by simp, by simp [Channel.advanced], by simpa [Channel.advanced] using hseq⟩,
      hfresh _ (by simp [Channel.advanced]) (by simp [Channel.advanced]) (by simpa using hnone), hlim _ rfl, hcurve⟩
    rcases hcases with ⟨rfl, rfl⟩ | ⟨rfl, -⟩ | ⟨rfl, m, -, rfl⟩ <;> simp [Channel.ResultLaw]
  · rw [hj]
    have hratio : ∀ m ∈ ratio, m ≤ 65535 := by
      intro m hm
      rcases hcases with ⟨-, rfl, -⟩ | ⟨-, rfl, hx⟩ <;> cases hm
      exact hx
    have ho := Result.applyCurve_outcome ({ c.advanced with raw := some n, ratio := ratio } : Result) c.curve x
    refine ⟨hdef, ?_, ⟨?_, by simpa using hratio, ?_, by simp [Channel.advanced], by simpa [Channel.advanced] using hseq⟩,
      hfresh _ (by simp [Channel.advanced]) (by simp [Channel.advanced]) ?_, hlim _ (by simp [Channel.advanced]), hcurve⟩
    · refine Channel.resultLaw_of_applyCurve rfl rfl ?_ ?_
      · rcases hcases with ⟨h0, rfl, -⟩ | ⟨h0, rfl, -⟩ <;> simp [h0]
      · rcases hcases with ⟨h0, rfl, rfl⟩ | ⟨h0, rfl, -⟩ <;> simp [Channel.input, h0]
    · intro m hm
      obtain rfl : n = m := by simpa using hm
      exact he
    · intro v hv
      rw [Result.evaluate_value] at hv
      exact Result.applyCurve_inMantissa (fun k hk => (hcurve k hk).2.2.2) x v hv
    · rw [Result.evaluate_outcome]
      rcases ho with e | e | e <;> rw [e] <;> decide

/-! ## Definitions -/

/-- A cleared result keeps the laws that speak of results (R10, R12). -/
theorem Channel.law_of_cleared {c : Channel} {n : Nat} (hr : c.result = Result.cleared n) (hn : n ≤ 65535)
    (hdef : c.defn.Law) (hstale : c.staleLimit ≤ 16383)
    (hset : ∀ l ∈ c.limits, l.valid = true ∧ l.hysteresis ≤ 1000 ∧ (∀ b ∈ l.low, inMantissa b) ∧
      ∀ h ∈ l.high, inMantissa h) (hcurve : c.CurveLaw) : c.Law := by
  refine ⟨hdef, ?_, ?_, ⟨hstale, ?_, ?_⟩, Channel.limitLaw_iff.2 ⟨hset, ?_⟩, hcurve⟩
  · unfold Channel.ResultLaw
    rw [hr]
    rfl
  · rw [hr]
    exact ⟨by simp [Result.cleared], by simp [Result.cleared], by simp [Result.cleared], by simp [Result.cleared], hn⟩
  · rw [hr]; rfl
  · rw [hr]; rfl
  · rw [hr]; exact LimitState.normal_within _

/-- A channel that DEFINE_CHANNEL makes keeps the laws (R10). -/
theorem newChannel_law {p : List Byte} {k : Nat} {q : DefReq} (h : decodeDef p k = some q) : (newChannel q).Law :=
  Channel.law_of_cleared rfl (by decide) (decodeDef_law h) (by simp [newChannel]) (by simp [newChannel])
    (by intro k hk; cases hk)

/-- The largest curve input depends on the presence of a reference alone (R70). -/
theorem curveOk_congr {d e : ChannelDef} (h : d.reference.isSome = e.reference.isSome) (pts : List Breakpoint) :
    curveOk d pts = curveOk e pts := by
  unfold curveOk maxInput
  rw [h]

/-- A modified channel keeps the laws, with a curve where the presence of a reference stays (R12, R13). -/
theorem Channel.Law.modified {c : Channel} {p : List Byte} {k : Nat} {q : DefReq} (h : c.Law)
    (hq : decodeDef p k = some q) (hc : c.curve.isSome = true → q.ref.isSome = c.defn.reference.isSome) :
    (c.modified q).Law := by
  obtain ⟨-, -, ⟨-, -, -, -, hseq⟩, ⟨hstale, -, -⟩, ⟨hset, -⟩, hcurve⟩ := h
  refine Channel.law_of_cleared rfl hseq (decodeDef_law hq) hstale hset fun k hk => ?_
  obtain ⟨hdec, hlen, hok, hy⟩ := hcurve k hk
  have hk' : c.curve = some k := hk
  have href : q.toDef.reference.isSome = c.defn.reference.isSome := by
    have := hc (by rw [hk']; rfl)
    simpa [DefReq.toDef] using this
  exact ⟨hdec, hlen, (curveOk_congr href k.points).trans hok, hy⟩

/-! ## SET_CURVE -/

/-- The outcomes whose value SET_CURVE recomputes (R76). -/
theorem Channel.recomputed_eq (c : Channel) :
    (∃ x, c.input = some x ∧ (c.result.outcome = .good ∨ c.result.outcome = .under ∨ c.result.outcome = .over) ∧
      c.recomputed = c.result.applyCurve c.curve x) ∨
    ((c.input = none ∨ (c.result.outcome ≠ .good ∧ c.result.outcome ≠ .under ∧ c.result.outcome ≠ .over)) ∧
      c.recomputed = c.result) := by
  unfold Channel.recomputed
  cases ho : c.result.outcome <;> cases hi : c.input <;> simp

/-- A channel with GOOD, UNDER or OVER has its curve input stored (R63, R71). -/
theorem Channel.ResultLaw.input {c : Channel} (h : c.ResultLaw)
    (ho : c.result.outcome = .good ∨ c.result.outcome = .under ∨ c.result.outcome = .over) :
    ∃ x, c.input = some x := by
  obtain ⟨hraw, hratio, -⟩ := (Channel.resultLaw_judged ho).1 h
  unfold Channel.input
  split
  · next hr => exact Option.isSome_iff_exists.1 (by rw [hratio, hr])
  · exact Option.isSome_iff_exists.1 hraw

/-- An outcome other than GOOD, UNDER and OVER has no value, whatever the curve (R63). -/
theorem Channel.ResultLaw.unjudged {c : Channel} (h : c.ResultLaw)
    (h1 : c.result.outcome ≠ .good) (h2 : c.result.outcome ≠ .under) (h3 : c.result.outcome ≠ .over) :
    c.result.value = none ∧ ∀ k, ({ c with curve := k } : Channel).ResultLaw := by
  cases ho : c.result.outcome
  case none =>
    have hc := (Channel.resultLaw_none ho).1 h
    exact ⟨by rw [hc]; rfl, fun k => (Channel.resultLaw_none (c := { c with curve := k }) ho).2 hc⟩
  all_goals
    unfold Channel.ResultLaw at h ⊢
    simp_all

/-- A channel after SET_CURVE (R76). -/
def Channel.recurved (c : Channel) (k : Option Curve) : Channel :=
  { c with curve := k, result := ({ c with curve := k } : Channel).recomputed.evaluate c.limits }

/-- SET_CURVE of a curve in the laws of R70, or of none, keeps the laws of the record. -/
theorem Channel.Law.recurved {c : Channel} {k : Option Curve} (h : c.Law)
    (hk : ({ c with curve := k } : Channel).CurveLaw) : (c.recurved k).Law := by
  obtain ⟨hdef, hres, ⟨hraw, hratio, hval, hage, hseq⟩, ⟨hstale, hpresent, hfresh⟩, hlimit, -⟩ := h
  obtain ⟨hset, hwithin⟩ := Channel.limitLaw_iff.1 hlimit
  obtain ⟨x, hin, ho, hr⟩ | ⟨hno, hr⟩ := ({ c with curve := k } : Channel).recomputed_eq
  · have ho : c.result.outcome = .good ∨ c.result.outcome = .under ∨ c.result.outcome = .over := ho
    obtain ⟨hraw', hratio', -⟩ := (Channel.resultLaw_judged ho).1 hres
    have hr' : (c.recurved k).result = (c.result.applyCurve k x).evaluate c.limits := by
      unfold Channel.recurved
      rw [hr]
    have hin' : (c.recurved k).input = some x := by
      rw [← hin]
      unfold Channel.input
      rw [hr']
      simp [Channel.recurved]
    have hout : (c.result.applyCurve k x).outcome ≠ .none := by
      rcases c.result.applyCurve_outcome k x with e | e | e <;> rw [e] <;> decide
    have hold : c.result.outcome ≠ .none := by rcases ho with e | e | e <;> rw [e] <;> decide
    refine ⟨hdef, Channel.resultLaw_of_applyCurve hr' hraw' hratio' hin', ?_, ⟨hstale, ?_, ?_⟩,
      Channel.limitLaw_iff.2 ⟨hset, ?_⟩, hk⟩
    · rw [hr']
      exact ⟨by simpa using hraw, by simpa using hratio, fun v hv => Result.applyCurve_inMantissa
        (fun q hq => (hk q hq).2.2.2) x v (by rwa [Result.evaluate_value] at hv), by simpa using hage, by simpa using hseq⟩
    · rw [hr']
      simp only [Result.evaluate_age, Result.evaluate_outcome, Result.applyCurve_age, hpresent]
      simp [hout, hold]
    · rw [hr', Result.evaluate_freshness, Result.evaluate_age, Result.applyCurve_freshness, Result.applyCurve_age]
      exact hfresh
    · rw [hr']
      exact Result.evaluate_within (by rw [Result.applyCurve_limit]; exact hwithin)
  · have hun : c.result.outcome ≠ .good ∧ c.result.outcome ≠ .under ∧ c.result.outcome ≠ .over := by
      rcases hno with hno | hno
      · refine ⟨fun e => ?_, fun e => ?_, fun e => ?_⟩
        · obtain ⟨x, hx⟩ := hres.input (.inl e); exact absurd (hx.symm.trans hno) (by simp)
        · obtain ⟨x, hx⟩ := hres.input (.inr (.inl e)); exact absurd (hx.symm.trans hno) (by simp)
        · obtain ⟨x, hx⟩ := hres.input (.inr (.inr e)); exact absurd (hx.symm.trans hno) (by simp)
      · exact hno
    obtain ⟨hv, hlaw⟩ := hres.unjudged hun.1 hun.2.1 hun.2.2
    have hr' : c.recurved k = { c with curve := k } := by
      unfold Channel.recurved
      rw [hr, Result.evaluate_of_absent hv]
    rw [hr']
    exact ⟨hdef, hlaw k, ⟨hraw, hratio, hval, hage, hseq⟩, ⟨hstale, hpresent, hfresh⟩, hlimit, hk⟩

/-! ## SET_LIMITS, SET_STALE_LIMIT and the base tick -/

/-- The limit state has no part in the result law but that of a cleared result, which is NORMAL (R63). -/
theorem Channel.ResultLaw.limit {c : Channel} {l : Option Limits} {x : LimitState} (h : c.ResultLaw)
    (hx : c.result.outcome = .none → x = c.result.limit) :
    ({ c with limits := l, result := { c.result with limit := x } } : Channel).ResultLaw := by
  cases ho : c.result.outcome
  case none =>
    have hc := (Channel.resultLaw_none ho).1 h
    refine Iff.mpr (Channel.resultLaw_none ?_) ?_
    · exact ho
    · rw [hx ho]
      exact hc
  all_goals
    unfold Channel.ResultLaw at h ⊢
    simp_all [Channel.input]

/-- An evaluation changes the limit state alone. -/
theorem Result.evaluate_eq (r : Result) (l : Option Limits) : r.evaluate l = { r with limit := (r.evaluate l).limit } := by
  unfold Result.evaluate
  split <;> rfl

/-- SET_LIMITS of a valid set in range, or of none, keeps the laws of the record (R86, R90). -/
theorem Channel.Law.relimited {c : Channel} {l : Option Limits} (h : c.Law)
    (hl : ∀ k ∈ l, k.valid = true ∧ k.hysteresis ≤ 1000 ∧ (∀ b ∈ k.low, inMantissa b) ∧ ∀ h ∈ k.high, inMantissa h) :
    (c.relimited l).Law := by
  obtain ⟨hdef, hres, ⟨hraw, hratio, hval, hage, hseq⟩, ⟨hstale, hpresent, hfresh⟩, -, hcurve⟩ := h
  have hr : (c.relimited l).result =
      { c.result with limit := (({ c.result with limit := .normal } : Result).evaluate l).limit } :=
    Result.evaluate_eq _ _
  have heq : c.relimited l = { c with limits := l, result := { c.result with
      limit := (({ c.result with limit := .normal } : Result).evaluate l).limit } } := by
    rw [← hr]; rfl
  rw [heq]
  refine ⟨hdef, hres.limit fun ho => ?_, ⟨hraw, hratio, hval, hage, hseq⟩, ⟨hstale, hpresent, hfresh⟩,
    Channel.limitLaw_iff.2 ⟨hl, Result.evaluate_within (LimitState.normal_within l)⟩, hcurve⟩
  have hc := (Channel.resultLaw_none ho).1 hres
  have hv : c.result.value = none := by rw [hc]; rfl
  have hn : c.result.limit = .normal := by rw [hc]; rfl
  rw [hn, Result.evaluate_of_absent (r := { c.result with limit := .normal }) hv]

/-- The age and the freshness have no part in the result law but that of a cleared result (R63). -/
theorem Channel.ResultLaw.aged {c : Channel} {n : Nat} {a : Option Nat} {f : Option Freshness} (h : c.ResultLaw)
    (hx : c.result.outcome = .none → a = c.result.age ∧ f = c.result.freshness) :
    ({ c with staleLimit := n, result := { c.result with age := a, freshness := f } } : Channel).ResultLaw := by
  cases ho : c.result.outcome
  case none =>
    have hc := (Channel.resultLaw_none ho).1 h
    refine Iff.mpr (Channel.resultLaw_none ?_) ?_
    · exact ho
    · rw [(hx ho).1, (hx ho).2]
      exact hc
  all_goals
    unfold Channel.ResultLaw at h ⊢
    simp_all [Channel.input]

/-- A cleared result has no age and no freshness (R63). -/
theorem Channel.FreshnessLaw.of_none {c : Channel} (h : c.FreshnessLaw) (ho : c.result.outcome = .none) :
    c.result.age = none ∧ c.result.freshness = none := by
  obtain ⟨-, hp, hf⟩ := h
  have ha : c.result.age = none := by simpa [ho] using hp
  exact ⟨ha, by rw [hf, ha]; rfl⟩

/-- A channel after SET_STALE_LIMIT (R84). -/
def Channel.restaled (c : Channel) (limit : Nat) : Channel :=
  { c with
    staleLimit := limit
    result := { c.result with
      freshness := if c.result.outcome = .none then c.result.freshness else c.result.age.map (freshnessOf limit) } }

/-- SET_STALE_LIMIT in range keeps the laws of the record (R82, R84). -/
theorem Channel.Law.restaled {c : Channel} {limit : Nat} (h : c.Law) (hl : limit ≤ 16383) :
    (c.restaled limit).Law := by
  obtain ⟨hdef, hres, ⟨hraw, hratio, hval, hage, hseq⟩, hf, hlimit, hcurve⟩ := h
  have hnone := hf.of_none
  obtain ⟨-, hpresent, -⟩ := hf
  refine ⟨hdef, hres.aged fun ho => ⟨rfl, if_pos ho⟩, ⟨hraw, hratio, hval, hage, hseq⟩, ⟨hl, hpresent, ?_⟩, hlimit,
    hcurve⟩
  change (if c.result.outcome = .none then c.result.freshness else c.result.age.map (freshnessOf limit)) =
    c.result.age.map (freshnessOf limit)
  split
  · next ho => rw [(hnone ho).1, (hnone ho).2]; rfl
  · rfl

/-- A channel whose age a base tick has reached (R81, R83). -/
def Channel.older (c : Channel) : Channel :=
  { c with result := { c.result with
      age := c.result.age.map olderBy1
      freshness := if c.staleNext then some .stale else c.result.freshness } }

theorem freshnessOf_stale_iff (limit age : Nat) : freshnessOf limit age = .stale ↔ limit ≠ 0 ∧ limit ≤ age := by
  unfold freshnessOf
  split <;> simp_all

/-- A base tick at an age keeps the laws of the record (R81, R82, R83). -/
theorem Channel.Law.older {c : Channel} (h : c.Law) : c.older.Law := by
  obtain ⟨hdef, hres, ⟨hraw, hratio, hval, hage, hseq⟩, hf, hlimit, hcurve⟩ := h
  have hnone := hf.of_none
  obtain ⟨hstale, hpresent, hfresh⟩ := hf
  have hfresh : c.result.freshness = c.result.age.map (freshnessOf c.staleLimit) := hfresh
  refine ⟨hdef, hres.aged fun ho => ?_, ⟨hraw, hratio, hval, ?_, hseq⟩, ⟨hstale, ?_, ?_⟩, hlimit, hcurve⟩
  · obtain ⟨ha, hf⟩ := hnone ho
    simp [ha, hf, Channel.staleNext]
  · intro a ha
    obtain ⟨b, -, rfl⟩ := Option.map_eq_some_iff.1 ha
    unfold olderBy1
    omega
  · exact (Option.isSome_map ..).trans hpresent
  · change (if c.staleNext then some .stale else c.result.freshness) =
      (c.result.age.map olderBy1).map (freshnessOf c.staleLimit)
    cases ha : c.result.age with
    | none => simp [Channel.staleNext, hfresh, ha]
    | some a =>
      have hmono : c.staleLimit ≤ a → c.staleLimit ≤ olderBy1 a := by unfold olderBy1; omega
      have hold := freshnessOf_stale_iff c.staleLimit a
      have hnew := freshnessOf_stale_iff c.staleLimit (olderBy1 a)
      simp only [Channel.staleNext, hfresh, ha, Option.map_some, Option.any_some]
      cases e : freshnessOf c.staleLimit a <;> cases e' : freshnessOf c.staleLimit (olderBy1 a) <;> simp_all

end Sys2Proof.Machine

/-! SUPPORT. What a step can do, said once: the moves of the part, each a change of one unit (or of a few that must change
together) with what holds when it is made. Every step is a chain of moves, so a law that every move keeps is kept by every
step. -/

namespace Sys2Proof.Machine

/-! ## Moves -/

/-- A host port that has answered the frame taken in `s` (R164, R167). -/
structure State.Answered (s : State) (hp : HostPort) : Prop where
  takes : s.takes
  port : hp.port = .done
  waiting : hp.waiting = none
  response : hp.response.isSome = true

/-- A host port that keeps the frame taken in `s` as a waiting request (R167). -/
structure State.Waits (s : State) (hp : HostPort) (w : Waiting) : Prop where
  takes : s.takes
  port : hp.port = .busy
  waiting : hp.waiting = some w
  response : hp.response = none

/-- A host port in which the request that waits in `s` has ended with a response (R168). -/
structure State.Ends (s : State) (hp : HostPort) (w : Waiting) : Prop where
  waits : s.hp.waiting = some w
  port : hp.port = .done
  waiting : hp.waiting = none
  response : hp.response.isSome = true

/-- A completion will answer a MEASURE_NOW of the channel: its one-shot and notice are set, and it is queued or converting
(R57, R58). -/
def State.Served (s : State) (i : Slot) : Prop :=
  (s.queued i = true ∨ s.converting i = true) ∧ ∃ c ∈ s.channel i, c.sched.oneShot = true ∧ c.sched.notice = true

/-- A conversion that goes on in the context it started with (R23, R32). -/
structure Conversion.Goes (v w : Conversion) : Prop where
  channel : w.channel = v.channel
  method : w.method = v.method
  countLen : w.countLen = v.countLen
  timeout : w.timeout = v.timeout
  count : v.count ≤ maxCount → w.count ≤ maxCount

/-- The clock unit after an event at its own counters (R178, R181). -/
structure ClockUnit.Runs (x y : ClockUnit) : Prop where
  held : y.held = true → x.held = true
  fast : y.fastClock = x.fastClock
  divider : x.divider ≤ 512 → y.divider ≤ 512
  init : (∀ n ∈ x.initCount, n ≤ 1024) → ∀ n ∈ y.initCount, n ≤ 1024

/-- A blink phase within the counts of its rate (R135). -/
def BlinkPhase.InRange (b : BlinkPhase) (reload : Nat) : Prop := 1 ≤ b.count ∧ b.count ≤ reload

/-- The laws that SourceLaw asks of one field, all but the liveness of its source. -/
def Field.Law (d : Field) : Prop :=
  d.kind.Law ∧ (∀ x ∈ d.hostData, x.Law) ∧ admits d.kind d.source = true ∧ lengthAllowed d.kind d.segs.length = true ∧
    (d.hostData.isSome → d.source = .host) ∧ formMatches d.kind d.hostData = true ∧
    patternFits d.segs.length d.hostData = true

/-- The state after a completion of the conversion in flight up to its pick, the raises, the dirty marks and the answer
(R33, R53). -/
def State.finished (s : State) (i : Slot) (c : Channel) (r : Result) : State :=
  { s with
    ct := s.tableWith i { c with
      result := r
      sched := { c.sched with oneShot := false, notice := false, unwaited := false, late := false } }
    ce := Engine.idle
    csu := { s.csu with fastClock := false } }

/-- The state after an interval expiry up to its pick (R43, R44). -/
def State.reloaded (s : State) (i : Slot) (c : Channel) : State :=
  { s with
    ct := s.tableWith i { c with sched := { c.sched with
      countdown := some c.defn.interval, late := c.sched.late || (s.queued i || s.converting i) } }
    ms := s.queueOf (if s.queued i = true ∨ s.converting i = true then s.ms.queue else s.ms.queue ++ [i]) }

/-- What a RESTART leaves before its wait (R182). -/
def State.cleared (s : State) : State :=
  { s with
    ct := s.ct.restarted
    ms := Scheduler.initial
    ce := Engine.idle
    csu := { s.csu with fastClock := false }
    ft := s.ft.restarted
    re := Renderer.initial
    gs := { s.gs with shown := Plane.dark, hold := none }
    au := s.au.clear }

/-- One move of the part. -/
inductive Move : State → State → Prop
  /-- The model's own fields: the waiting commands and the count of free values. -/
  | own (s : State) (l : List Instr) (n : Nat) : Move s { s with pending := l, freeIx := n }
  /-- The lines and flags of the host port. -/
  | line {s : State} {hp : HostPort} (port : hp.port = s.hp.port) (waiting : hp.waiting = s.hp.waiting)
      (response : hp.response = s.hp.response)
      (quiet : s.csu.held = true → ∀ b, hp.select = .low b → hp.sdo = []) : Move s { s with hp := hp }
  /-- A taken frame is answered. -/
  | answer {s : State} {hp : HostPort} (h : s.Answered hp) : Move s { s with hp := hp }
  /-- A taken request waits. -/
  | wait {s : State} {hp : HostPort} {w : Waiting} (h : s.Waits hp w) (glass : w ≠ .setGlass)
      (served : ∀ i, w = .measureNow i → s.Served i) : Move s { s with hp := hp }
  /-- A waiting request ends. -/
  | ends {s : State} {hp : HostPort} {w : Waiting} (h : s.Ends hp w) (glass : w ≠ .setGlass) : Move s { s with hp := hp }
  /-- The initialisation ends. -/
  | initialised {s : State} {hp : HostPort} (init : s.hp.port = .init) (held : s.csu.held = false)
      (port : hp.port = .idle) (waiting : hp.waiting = s.hp.waiting) (response : hp.response = s.hp.response) :
      Move s { s with hp := hp }
  /-- The attention unit, with new pairs of live channels alone. -/
  | attention {s : State} {au : Attention}
      (live : ∀ i : Slot, au.channels[i].any = true → s.au.channels[i].any = true ∨ (s.channel i).isSome = true) :
      Move s { s with au := au }
  /-- The counters of the clock unit. -/
  | clock {s : State} {csu : ClockUnit} (h : s.csu.Runs csu) : Move s { s with csu := csu }
  /-- The frame in progress and the commit. -/
  | frame {s : State} (shown : Plane) (drive : Drive) (changed : Bool) {timer : Nat}
      (h : s.gs.frameTimer ≤ 1024 → timer ≤ 1024) :
      Move s { s with gs := { s.gs with shown := shown, drive := drive, frameTimer := timer }
                      re := { s.re with changed := changed } }
  /-- The blink phases. -/
  | blink {s : State} {slow fast : BlinkPhase} (hs : s.gs.slow.InRange 32 → slow.InRange 32)
      (hf : s.gs.fast.InRange 8 → fast.InRange 8) : Move s { s with gs := { s.gs with slow := slow, fast := fast } }
  /-- The hold state. -/
  | hold {s : State} {hold : Option Nat} (h : s.takes ∨ s.gs.hold.isSome = true)
      (range : (∀ n ∈ s.gs.hold, 1 ≤ n ∧ n ≤ 255) → ∀ n ∈ hold, 1 ≤ n ∧ n ≤ 255) :
      Move s { s with gs := { s.gs with hold := hold } }
  /-- A conversion in flight goes on. -/
  | convert {s : State} {v w : Conversion} (hv : s.ce.conv = some v) (h : v.Goes w) :
      Move s { s with ce := { s.ce with conv := some w } }
  /-- The conversion in flight completes. -/
  | complete {s : State} {v : Conversion} {c : Channel} {r : Result} (hv : s.ce.conv = some v)
      (hc : s.channel v.channel = some c) (hw : s.hp.waiting ≠ some (.measureNow v.channel))
      (law : v.count ≤ maxCount → c.Law → ({ c with result := r } : Channel).Law) :
      Move s (s.finished v.channel c r).pick
  /-- The conversion in flight stops, its channel gone. -/
  | stop {s : State} {v : Conversion} (hv : s.ce.conv = some v) (hc : s.channel v.channel = none) :
      Move s s.stopEngine.pick
  /-- A pick. -/
  | pick (s : State) : Move s s.pick
  /-- A field is marked dirty. -/
  | dirty {s : State} {f : FieldIx} (live : (s.field f).isSome = true) : Move s (s.markDirty f)
  /-- A channel is defined. -/
  | define {s : State} {i : Slot} {p : List Byte} {k : Nat} {q : DefReq} (hq : decodeDef p k = some q)
      (free : s.channel i = none) (check : s.defineCheck q = none) : Move s (s.enterChannel i q)
  /-- A channel is modified. -/
  | modify {s : State} {i : Slot} {c : Channel} {p : List Byte} {k : Nat} {q : DefReq} (ht : s.takes)
      (hq : decodeDef p k = some q) (hc : s.channel i = some c) (check : s.modifyCheck i c q = none) :
      Move s ({ s with
        ct := { slots := (s.tableWith i (c.modified q)).slots
                tags := vput s.ct.tags i (some q.tag)
                pins := vput (vput s.ct.pins c.defn.pin none) q.pin (some i) }
        ms := s.queueOf (s.ms.queue.erase i)
        ce := s.engineWithout i
        csu := s.clocksWithout i } : State).pick
  /-- The fields naming a slot are detached from it. -/
  | detach (s : State) (i : Slot) : Move s { s with ft := { s.ft with slots := s.ft.slots.map (FieldSlot.detach i) } }
  /-- A channel without referrers, attention pairs and fields is retired. -/
  | retire {s : State} {i : Slot} {c : Channel} (ht : s.takes) (hc : s.channel i = some c) (href : s.hasReferrer i = false)
      (hau : s.au.channels[i].any = false) (hft : ∀ f d g, s.field f = some d → d.source ≠ .channel i g) :
      Move s ({ s with
        ct := s.ct.freed i c.defn.pin
        ms := s.queueOf (s.ms.queue.erase i)
        ce := s.engineWithout i
        csu := s.clocksWithout i } : State).pick
  /-- A channel is started. -/
  | start {s : State} {i : Slot} {c : Channel} (hc : s.channel i = some c) (inactive : c.state ≠ .active) :
      Move s (s.started i c).pick
  /-- A channel is suspended. -/
  | suspend {s : State} {i : Slot} {c : Channel} (ht : s.takes) (hc : s.channel i = some c) : Move s (s.suspended i c).pick
  /-- A one-shot is asked for. -/
  | measure {s : State} {i : Slot} {c : Channel} (wait : Bool) (hc : s.channel i = some c) :
      Move s (s.measured i c wait).pick
  /-- A one-shot of which no request waits is withdrawn. -/
  | withdraw {s : State} {i : Slot} {c : Channel} (hc : s.channel i = some c) (hw : s.hp.waiting = none) :
      Move s (s.withdrawn i c).pick
  /-- The schedule pauses. -/
  | pause (s : State) : Move s { s with ms := { s.ms with mode := .paused } }
  /-- The schedule runs. -/
  | resume (s : State) : Move s ({ s with ms := { s.ms with mode := .run } } : State).pick
  /-- A countdown falls. -/
  | countdown {s : State} {i : Slot} {c : Channel} {n : Nat} (hc : s.channel i = some c) (hs : c.state = .active)
      (hn : c.sched.countdown = some n) (h1 : 1 < n) :
      Move s { s with ct := s.tableWith i { c with sched := { c.sched with countdown := some (n - 1) } } }
  /-- An interval expires. -/
  | expire {s : State} {i : Slot} {c : Channel} (hc : s.channel i = some c) (hs : c.state = .active) :
      Move s (s.reloaded i c).pick
  /-- A record changes beside state, definition and scheduling part. -/
  | record {s : State} {i : Slot} {c d : Channel} (hc : s.channel i = some c) (state : d.state = c.state)
      (defn : d.defn = c.defn) (sched : d.sched = c.sched) (law : c.Law → d.Law) :
      Move s { s with ct := s.tableWith i d }
  /-- A field is bound. -/
  | bind {s : State} {f : FieldIx} {d : Field} (ht : s.takes) (free : s.field f = none) (law : d.Law)
      (live : s.sourceLive d.source = true) (nodup : d.segs.Nodup)
      (geometry : ∀ a ∈ d.segs, inGeometry s.gs.settings.duty a = true) (unowned : ∀ a ∈ d.segs, s.ft.owners[a] = none) :
      Move s (s.bound f d)
  /-- A field changes beside its segments. -/
  | rewrite {s : State} {f : FieldIx} {d e : Field} (hd : s.field f = some d) (segs : e.segs = d.segs)
      (law : d.Law → e.Law) (live : s.sourceLive d.source = true → s.sourceLive e.source = true) :
      Move s { s with ft := s.fieldsWith f e }
  /-- A field is retired. -/
  | unbind {s : State} {f : FieldIx} {d : Field} (hd : s.field f = some d) : Move s (s.retireField f d)
  /-- The head leaves the render queue. -/
  | unqueue {s : State} {f : FieldIx} {rest : List FieldIx} (hq : s.re.queue = f :: rest) :
      Move s { s with re := { s.re with queue := rest } }
  /-- A field is drawn. -/
  | draw {s : State} {f : FieldIx} {d : Field} (hd : s.field f = some d) : Move s (s.renderField d)
  /-- A SET_GLASS waits. -/
  | glassWaits {s : State} {hp : HostPort} {p : List Byte} {g : GlassSettings} (h : s.Waits hp .setGlass)
      (hg : decodeGlass p = some g) (hold : s.gs.hold = none) (fits : s.conflict g.duty = none) :
      Move s { s with gs := { s.gs with pendingSettings := some g }, hp := hp }
  /-- A SET_GLASS is cancelled. -/
  | glassEnds {s : State} {hp : HostPort} (h : s.Ends hp .setGlass) :
      Move s { s with gs := { s.gs with pendingSettings := none }, hp := hp }
  /-- Pending settings are applied. -/
  | apply {s : State} (held : s.csu.held = false) : Move s s.applySettings
  /-- A RESTART clears the part. -/
  | clear {s : State} (ht : s.takes) : Move s s.cleared
  /-- A reset. -/
  | reset (s : State) (r : RestartReason) : Move s (s.resetTo r)

/-- A chain of moves. -/
abbrev Moves : State → State → Prop := Relation.ReflTransGen Move

/-- A predicate that every move keeps is kept by a chain of moves. -/
theorem Moves.keeps {P : State → Prop} (h : ∀ s t, P s → Move s t → P t) {s t : State} (hm : Moves s t) (hs : P s) :
    P t := by
  induction hm with
  | refl => exact hs
  | tail _ hlast ih => exact h _ _ ih hlast

theorem Move.moves {s t : State} (h : Move s t) : Moves s t := .single h

/-! ## Frames and answers -/

/-- A frame behind a change that leaves port and clock unit is still taken. -/
theorem State.takes_congr {s t : State} (hhp : t.hp = s.hp) (hheld : t.csu.held = s.csu.held) (h : s.takes) : t.takes := by
  unfold State.takes State.judges
  rw [hhp, hheld]
  exact h

theorem State.answered_isAnswer {s t : State} (h : t.takes) (code : ResultCode) (p : List Byte) :
    t.Answered (s.answered code p) :=
  ⟨h, rfl, rfl, rfl⟩

/-- A chain of moves behind which the frame taken first is answered. -/
theorem Moves.answer {s u : State} {hp : HostPort} (h : s.takes) (hm : Moves s u) (hhp : u.hp = s.hp)
    (hheld : u.csu.held = s.csu.held) (h1 : hp.port = .done) (h2 : hp.waiting = none)
    (h3 : hp.response.isSome = true) : Moves s { u with hp := hp } :=
  hm.tail (.answer ⟨State.takes_congr hhp hheld h, h1, h2, h3⟩)

/-- The same with a pick behind the change, which the answer does not touch. -/
theorem Moves.answerPick {s u : State} (h : s.takes) (hm : Moves s u.pick) (hhp : u.hp = s.hp)
    (hheld : u.csu.held = s.csu.held) (code : ResultCode) (p : List Byte) :
    Moves s ({ u with hp := s.answered code p } : State).pick := by
  rw [State.pick_setHp]
  exact Moves.answer h hm (by rw [State.pick_hp, hhp]) (by rw [State.pick_held, hheld]) rfl rfl rfl

/-- A frame that is answered at once. -/
theorem Moves.refuse {s : State} (h : s.takes) (code : ResultCode) (p : List Byte) :
    Moves s (s.entered.respond code p) :=
  (Move.answer (State.answered_isAnswer (s := s) h code p)).moves

/-- The lines of the port with CS high. -/
theorem Move.line_high {s : State} {hp : HostPort} (select : hp.select = .high) (port : hp.port = s.hp.port)
    (waiting : hp.waiting = s.hp.waiting) (response : hp.response = s.hp.response) : Move s { s with hp := hp } :=
  .line port waiting response fun _ b hb => by rw [select] at hb; cases hb

/-- A COMMAND frame is a move of the port's lines, or the chain of moves of what it asks for. -/
theorem commandFrame_moves {act : State → State} {s : State} (h : s.takes → Moves s (act s.entered)) :
    Moves s (commandFrame act s) := by
  by_cases hj : s.judges
  · have hcases : s.drops ∨ s.takes := by
      unfold State.drops State.takes
      cases s.hp.port <;> simpa using hj
    rcases hcases with hd | ht
    · rw [commandFrame_dropped hd]
      exact Move.moves (Move.line_high rfl rfl rfl rfl)
    · rw [commandFrame_taken ht]
      exact h ht
  · have hdeaf : s.csu.held = true ∨ s.hp.select = .dead := by
      unfold State.judges at hj
      cases hh : s.csu.held <;> simp_all
    rw [commandFrame_deaf hdeaf]
    exact Move.moves (Move.line_high rfl rfl rfl rfl)

/-- A host request is a chain of moves when what it asks for is one, the length being right. -/
theorem hostRequest_moves {ok : Bool} {act : State → State} {s : State}
    (h : ok = true → s.takes → Moves s (act s.entered)) : Moves s (hostRequest ok act s) := by
  refine commandFrame_moves fun ht => ?_
  split
  · next hok => exact h hok ht
  · exact .refuse ht _ _

/-- A request that names a channel is refused, or acts on a live channel of the slot named. -/
theorem onChannel_moves {ok : Bool} {b : Byte} {act : Slot → Channel → State → State} {s : State} (ht : s.takes)
    (h : ∀ i c, ok = true → s.channel i = some c → Moves s (act i c s.entered)) :
    Moves s (onChannel ok b act s.entered) := by
  unfold onChannel
  split
  · exact .refuse ht _ _
  · split
    · next hok =>
      split
      · exact .refuse ht _ _
      · next hc => exact h _ _ hok (State.accept_eq_some.1 hc).2
    · exact .refuse ht _ _

/-- A request that names a field is refused, or acts on a live field of the slot named. -/
theorem onField_moves {ok : Bool} {b : Byte} {act : FieldIx → Field → State → State} {s : State} (ht : s.takes)
    (h : ∀ f d, ok = true → s.field f = some d → Moves s (act f d s.entered)) :
    Moves s (onField ok b act s.entered) := by
  unfold onField
  split
  · exact .refuse ht _ _
  · split
    · next hok =>
      split
      · exact .refuse ht _ _
      · next hd => exact h _ _ hok (State.acceptField_eq_some.1 hd).2
    · exact .refuse ht _ _

/-! ## Marks and raises -/

/-- Live fields marked dirty one after another. -/
theorem Moves.markAll {fs : List FieldIx} (s : State) (live : ∀ f ∈ fs, (s.field f).isSome = true) :
    Moves s (s.markAll fs) := by
  induction fs generalizing s with
  | nil => exact .refl
  | cons f rest ih =>
    refine .head (.dirty (live f (by simp))) (ih _ fun g hg => ?_)
    rw [State.markDirty_eq]
    exact live g (List.mem_cons_of_mem _ hg)

/-- Live fields marked dirty by one event. -/
theorem Moves.dirtied {s : State} {fs : List FieldIx} (hn : fs.Nodup) (live : ∀ f ∈ fs, (s.field f).isSome = true) :
    Moves s { s with re := s.dirtied fs } := by
  rw [← State.markAll_eq s hn]
  exact .markAll s live

/-- The fields of a channel are live. -/
theorem State.fieldsOf_live {s : State} {i : Slot} : ∀ f ∈ s.fieldsOf i, (s.field f).isSome = true := by
  intro f hf
  have := (List.mem_filter.1 hf).2
  cases hd : s.field f with
  | none => rw [hd] at this; cases this
  | some d => rfl

theorem State.fieldsNaming_live {s : State} {i : Slot} : ∀ f ∈ s.fieldsNaming i, (s.field f).isSome = true := by
  intro f hf
  have := (List.mem_filter.1 hf).2
  cases hd : s.field f with
  | none => rw [hd] at this; cases this
  | some d => rfl

/-- Raises for one live channel. -/
theorem Move.raised {s : State} {i : Slot} (hi : (s.channel i).isSome = true) (r l q o : Bool) :
    Move s { s with au := s.pairsRaised i r l q o } := by
  refine .attention fun j hj => ?_
  by_cases h : j = i
  · exact .inr (h ▸ hi)
  · left
    simpa [State.pairsRaised, vput_getVal, h] using hj

/-- A changed record with its raises and dirty marks. -/
theorem Moves.record {s : State} {i : Slot} {c d : Channel} (hc : s.channel i = some c) (state : d.state = c.state)
    (defn : d.defn = c.defn) (sched : d.sched = c.sched) (law : c.Law → d.Law) (r l q o : Bool) :
    Moves s { s with ct := s.tableWith i d, au := s.pairsRaised i r l q o, re := s.dirtied (s.fieldsOf i) } := by
  have raise : Move s { s with au := s.pairsRaised i r l q o } := .raised (by rw [hc]; rfl) r l q o
  have mark : Moves { s with au := s.pairsRaised i r l q o }
      { s with au := s.pairsRaised i r l q o, re := s.dirtied (s.fieldsOf i) } :=
    Moves.dirtied (s := { s with au := s.pairsRaised i r l q o }) (s.fieldsOf_nodup i) s.fieldsOf_live
  exact (mark.head raise).tail (.record hc state defn sched law)

/-! ## Requests about channels -/

theorem doDefine_moves {p : List Byte} {s : State} (ht : s.takes) : Moves s (doDefine p s.entered) := by
  unfold doDefine
  split
  · exact .refuse ht _ _
  · next q hq =>
    split
    · exact .refuse ht _ _
    · next i hi =>
      split
      · exact .refuse ht _ _
      · next hcheck =>
        have free : s.channel i = none := by
          have := List.find?_some hi
          exact Option.isNone_iff_eq_none.1 this
        exact Moves.answer (u := s.enterChannel i q) ht (Move.define hq free hcheck).moves rfl rfl rfl rfl rfl

theorem doModify_moves {p : List Byte} {s : State} (ht : s.takes) : Moves s (doModify p s.entered) := by
  unfold doModify
  split
  · exact .refuse ht _ _
  · next q hq =>
    refine onChannel_moves ht fun i c _ hc => ?_
    split
    · exact .refuse ht _ _
    · next hcheck =>
      have raise : Move s { s with
          au := s.pairsRaised i false (c.result.limit ≠ .normal) (c.result.outcome ≠ .none) false } :=
        .raised (by rw [hc]; rfl) _ _ _ _
      have mark := Moves.dirtied (s := { s with
          au := s.pairsRaised i false (c.result.limit ≠ .normal) (c.result.outcome ≠ .none) false })
        (s.fieldsOf_nodup i) s.fieldsOf_live
      have effect : Moves s (s.modified i c q).pick := (mark.head raise).tail (.modify (p := p) (k := 1) (State.takes_congr rfl rfl ht) hq hc hcheck)
      rw [State.modifyChannel_eq]
      exact Moves.answerPick ht effect rfl (by simp only [State.modified, State.clocksWithout]; split <;> rfl) _ _

/-- A field after the detachment of a slot's fields. -/
theorem State.detached_field {s t : State} {i : Slot} (h : t.ft.slots = s.ft.slots.map (FieldSlot.detach i))
    (f : FieldIx) : t.field f = (FieldSlot.detach i s.ft.slots[f]).occupant := by
  unfold State.field
  rw [h]
  simp

/-- A field's record after the detachment of a slot's fields. -/
def Field.detached (i : Slot) (d : Field) : Field :=
  match d.source with
  | .channel j _ => if j = i then { d with source := .detached } else d
  | _ => d

theorem State.detached_field_map {s t : State} {i : Slot} (h : t.ft.slots = s.ft.slots.map (FieldSlot.detach i))
    (f : FieldIx) : t.field f = (s.field f).map (Field.detached i) := by
  rw [State.detached_field h]
  rfl

/-- No field names the slot after the detachment. -/
theorem Field.detached_source (i : Slot) (d : Field) (g : Fin 16) : (d.detached i).source ≠ .channel i g := by
  unfold Field.detached
  split
  · next j h hs =>
    split
    · simp
    · next hj =>
      rw [hs]
      intro e
      cases e
      exact hj rfl
  · next hs => exact fun e => hs _ _ e

/-- A dropped slot has no pair. -/
theorem Attention.drop_any (a : Attention) (i j : Slot) :
    (a.drop i).channels[j].any = if j = i then false else a.channels[j].any := by
  unfold Attention.drop
  by_cases h : j = i
  · subst h
    simp only [vput_get, if_true]
    rfl
  · simp [vput_getVal, h]

theorem doRetire_moves {p : List Byte} {s : State} (ht : s.takes) : Moves s (doRetire p s.entered) := by
  refine onChannel_moves ht fun i c _ hc => ?_
  split
  · exact .refuse ht _ _
  · next href =>
    have href : s.hasReferrer i = false := Bool.eq_false_iff.2 href
    have drop : Move s { s with au := s.au.drop i } := .attention fun j hj => by
      rw [Attention.drop_any] at hj
      split at hj
      · cases hj
      · exact .inl hj
    have mark := Moves.dirtied (s := { s with au := s.au.drop i }) (s.fieldsNaming_nodup i) s.fieldsNaming_live
    have detach := Move.detach { s with au := s.au.drop i, re := s.dirtied (s.fieldsNaming i) } i
    have free := Move.retire (s := { s with
        au := s.au.drop i
        re := s.dirtied (s.fieldsNaming i)
        ft := { s.ft with slots := s.ft.slots.map (FieldSlot.detach i) } }) (State.takes_congr rfl rfl ht) hc href
      (by rw [Attention.drop_any, if_pos rfl]) (fun f d g hd => by
        rw [State.detached_field_map (s := s) rfl] at hd
        obtain ⟨e, -, rfl⟩ := Option.map_eq_some_iff.1 hd
        exact e.detached_source i g)
    have effect : Moves s (s.retired i c).pick := ((mark.head drop).tail detach).tail free
    rw [State.retireChannel_eq]
    exact Moves.answerPick ht effect rfl (by simp only [State.retired, State.clocksWithout]; split <;> rfl) _ _

theorem doFind_moves {p : List Byte} {s : State} (ht : s.takes) : Moves s (doFind p s.entered) := by
  unfold doFind
  split
  · split
    · exact .refuse ht _ _
    · exact .refuse ht _ _
  · exact .refuse ht _ _

/-! ## Requests about the schedule -/

theorem doStart_moves {p : List Byte} {s : State} (ht : s.takes) : Moves s (doStart p s.entered) := by
  refine onChannel_moves ht fun i c _ hc => ?_
  split
  · exact .refuse ht _ _
  · next hs =>
    rw [State.started_eq]
    exact Moves.answerPick ht (Move.start hc hs).moves rfl rfl _ _

theorem doSuspend_moves {p : List Byte} {s : State} (ht : s.takes) : Moves s (doSuspend p s.entered) := by
  refine onChannel_moves ht fun i c _ hc => ?_
  split
  · rw [State.suspendChannel_eq]
    exact Moves.answerPick ht (Move.suspend ht hc).moves rfl
      (by simp only [State.suspended, State.clocksWithout]; split <;> rfl) _ _
  · exact .refuse ht _ _

/-- A channel with its one-shot asked for is served. -/
theorem State.measured_served (s : State) (i : Slot) (c : Channel) (wait : Bool) : (s.measured i c wait).Served i := by
  refine ⟨?_, _, State.channel_tableWith_self (s := s) rfl, rfl, rfl⟩
  by_cases h : s.converting i = true
  · exact .inr h
  · left
    simp [State.queued, State.measured, State.queueOf, h]

/-- A pick leaves a served channel served: its entry stays, or its conversion starts. -/
theorem State.Served.startChannel {s : State} {i h : Slot} {c : Channel} (hq : s.queued i = true) :
    (s.startChannel h c).queued i = true ∨ (s.startChannel h c).converting i = true := by
  rw [State.startChannel_eq]
  by_cases e : i = h
  · right
    simp [State.converting, startedEngine, e]
  · left
    simpa [State.queued, State.queueOf, List.mem_erase_of_ne e] using hq

theorem State.Served.pick {s : State} {i : Slot} (h : s.Served i) : s.pick.Served i := by
  obtain ⟨hq, c, hc, ho, hn⟩ := h
  have queued {k : Slot} (hk : s.picked = some k) : s.queued i = true :=
    hq.resolve_right fun hv => by simp [State.converting, (State.picked_spec hk).1] at hv
  refine ⟨?_, ?_⟩
  · obtain ⟨e, -⟩ | ⟨k, d, hk, -, e⟩ | ⟨k, d, l, r, hk, hd, -, -, -, e⟩ := s.pick_cases
    · rw [e]; exact hq
    · rw [e]; exact State.Served.startChannel (queued hk)
    · rw [e]
      refine State.Served.startChannel ?_
      rw [State.onSched_eq _ hd]
      by_cases e : i = k
      · simp [State.queued, State.toHead, State.setQueue, State.setMs, e]
      · simpa [State.queued, State.toHead, State.setQueue, State.setMs, e, List.mem_erase_of_ne e] using queued hk
  · have e := s.pick_channel_map (fun c => (c.sched.oneShot, c.sched.notice)) (fun _ => rfl) i
    rw [hc] at e
    obtain ⟨d, hd, e⟩ := Option.map_eq_some_iff.1 e
    simp only [Prod.mk.injEq] at e
    exact ⟨d, hd, e.1.trans ho, e.2.trans hn⟩

theorem doMeasure_moves {p : List Byte} {s : State} (ht : s.takes) : Moves s (doMeasure p s.entered) := by
  refine onChannel_moves ht fun i c _ hc => ?_
  have hc' : s.entered.channel i = some c := hc
  split
  · rw [State.measure_eq hc']
    have served : (s.measured i c true).pick.Served i := (s.measured_served i c true).pick
    have effect : Move s (s.measured i c true).pick := .measure true hc
    have port : (s.measured i c true).pick.Waits (s.waitingPort (.measureNow i)) (.measureNow i) :=
      ⟨State.takes_congr (by rw [State.pick_hp]; rfl) (by rw [State.pick_held]; rfl) ht, rfl, rfl, rfl⟩
    have wait := Move.wait port (by simp) (by rintro j ⟨⟩; exact served)
    rw [← State.pick_setHp] at wait
    exact effect.moves.tail wait
  · rw [State.measure_eq hc']
    exact Moves.answerPick ht (Move.measure false hc).moves rfl rfl _ _

theorem doPause_moves {s : State} (ht : s.takes) : Moves s (doMode .paused s.entered) :=
  Moves.answer (u := { s with ms := { s.ms with mode := .paused } }) ht (Move.pause s).moves rfl rfl rfl rfl rfl

theorem doResume_moves {s : State} (ht : s.takes) : Moves s (doMode .run s.entered).pick :=
  Moves.answerPick (u := { s with ms := { s.ms with mode := .run } }) ht (Move.resume s).moves rfl rfl _ _

/-! ## Requests about results -/

/-- An answered record change. -/
theorem Moves.answerRecord {s : State} {i : Slot} {c d : Channel} {l q : Bool} (ht : s.takes)
    (hc : s.channel i = some c) (state : d.state = c.state) (defn : d.defn = c.defn) (sched : d.sched = c.sched)
    (law : c.Law → d.Law) :
    Moves s { s with
      ct := s.tableWith i d, au := s.pairsRaised i false l q false, re := s.dirtied (s.fieldsOf i)
      hp := s.answered .ok [] } :=
  Moves.answer ht (Moves.record hc state defn sched law false l q false) rfl rfl rfl rfl rfl

/-- The curve that a payload supplies keeps the law of curves when its checks pass (R70, R75). -/
theorem suppliedCurve_law {p : List Byte} {c : Channel} (hd : byteAt p 2 = 0#8 ∨ (byteAt p 1).toNat ≤ 3)
    (hok : curveOk c.defn (breakpoints p (byteAt p 2).toNat) = true) :
    ({ c with curve := suppliedCurve p } : Channel).CurveLaw := by
  intro k hk
  have hk : suppliedCurve p = some k := hk
  unfold suppliedCurve at hk
  split at hk
  · cases hk
  · next h0 =>
    cases hk
    refine ⟨hd.resolve_left h0, ?_, hok, fun b hb => ?_⟩
    · have hlen : (breakpoints p (byteAt p 2).toNat).length = (byteAt p 2).toNat := by simp [breakpoints]
      have hne : (byteAt p 2).toNat ≠ 0 := fun e => h0 (BitVec.eq_of_toNat_eq e)
      simp only [curveOk, Bool.and_eq_true, Bool.or_eq_true, decide_eq_true_eq, hlen] at hok
      dsimp only
      omega
    · obtain ⟨j, -, rfl⟩ := List.mem_map.1 hb
      exact mantissaAt_inMantissa p _

theorem State.setCurve_eq (s : State) (i : Slot) (c : Channel) (k : Option Curve) :
    s.setCurve i c k = { s with
      ct := s.tableWith i (c.recurved k)
      au := s.pairsRaised i false ((c.recurved k).result.limit ≠ c.result.limit)
        ((c.recurved k).result.outcome ≠ c.result.outcome) false
      re := s.dirtied (s.fieldsOf i) } :=
  s.putResult_markFields i { c with curve := k } _ _

theorem doSetCurve_moves {p : List Byte} {s : State} (ht : s.takes) : Moves s (doSetCurve p s.entered) := by
  refine onChannel_moves ht fun i c hok hc => ?_
  split
  · next hcurve =>
    rw [State.setCurve_eq]
    exact Moves.answerRecord ht hc rfl rfl rfl fun h => h.recurved (suppliedCurve_law (by simpa using hok) hcurve)
  · exact .refuse ht _ _

/-- A limit set on the wire has its hysteresis and its bounds in range (R89). -/
theorem decodeLimits_range {p : List Byte} {l : Limits} (h : decodeLimits p = some (some l)) :
    l.hysteresis ≤ 1000 ∧ (∀ b ∈ l.low, inMantissa b) ∧ ∀ h ∈ l.high, inMantissa h := by
  unfold decodeLimits at h
  split at h
  · cases h
  · split at h
    · split at h
      · split at h
        · next hh =>
          cases h
          refine ⟨hh, fun b hb => ?_, fun b hb => ?_⟩
          · dsimp only at hb
            split at hb
            · cases hb; exact mantissaAt_inMantissa p 3
            · cases hb
          · dsimp only at hb
            split at hb
            · cases hb; exact mantissaAt_inMantissa p 6
            · cases hb
        · cases h
      · cases h
    · cases h

theorem doSetLimits_moves {p : List Byte} {s : State} (ht : s.takes) : Moves s (doSetLimits p s.entered) := by
  refine onChannel_moves ht fun i c hok hc => ?_
  obtain ⟨l, hl⟩ := Option.isSome_iff_exists.1 hok
  rw [hl]
  cases l with
  | none =>
    change Moves s ((s.entered.setLimits i c none).respond .ok [])
    rw [State.entered_setLimits_respond]
    exact Moves.answerRecord ht hc rfl rfl rfl fun h => h.relimited (by simp)
  | some l =>
    change Moves s (if l.valid then (s.entered.setLimits i c (some l)).respond .ok [] else
      s.entered.respond .badLimits [])
    split
    · next hv =>
      rw [State.entered_setLimits_respond]
      refine Moves.answerRecord ht hc rfl rfl rfl fun h => h.relimited ?_
      rintro k ⟨⟩
      exact ⟨hv, decodeLimits_range hl⟩
    · exact .refuse ht _ _

theorem State.setStaleLimit_eq (s : State) (i : Slot) (c : Channel) (limit : Nat) :
    s.setStaleLimit i c limit = { s with
      ct := s.tableWith i (c.restaled limit)
      au := s.pairsRaised i false false ((c.restaled limit).result.freshness ≠ c.result.freshness) false
      re := s.dirtied (s.fieldsOf i) } := by
  have e := s.putResult_markFields i { c with staleLimit := limit } (c.restaled limit).result
    ((c.restaled limit).result.freshness ≠ c.result.freshness)
  have hl : decide ((c.restaled limit).result.limit ≠ c.result.limit) = false := decide_eq_false (by simp [Channel.restaled])
  rw [hl] at e
  exact e

theorem doSetStaleLimit_moves {p : List Byte} {s : State} (ht : s.takes) : Moves s (doSetStaleLimit p s.entered) := by
  refine onChannel_moves ht fun i c hok hc => ?_
  rw [State.setStaleLimit_eq]
  exact Moves.answerRecord ht hc rfl rfl rfl fun h => h.restaled (by simpa using hok)

end Sys2Proof.Machine

/-! SUPPORT. The moves of the remaining commands, and every step as a chain of moves. -/

namespace Sys2Proof.Machine

/-! ## Requests about fields -/

theorem numericOk_iff {w d : Nat} : numericOk w d = true ↔ 1 ≤ w ∧ w ≤ 6 ∧ d ≤ 3 ∧ d < w := by
  simp [numericOk, and_assoc]

/-- A kind on the wire has its parameters well-formed (R97). -/
theorem decodeKind_law {p : List Byte} {k : FieldKind} (h : decodeKind p = some k) : k.Law := by
  unfold decodeKind at h
  split at h
  · split at h
    · split at h
      · next hn => cases h; exact numericOk_iff.1 hn
      · cases h
    · cases h
  · split at h
    · next hlt => cases h; exact ⟨mantissaAt_inMantissa p 6, mantissaAt_inMantissa p 8, hlt⟩
    · cases h
  · obtain ⟨c, -, rfl⟩ := Option.map_eq_some_iff.1 h
    trivial
  · cases h; trivial
  · cases h

/-- A bind on the wire has its kind well-formed and its source admitted (R103, step 1). -/
theorem decodeBind_law {p : List Byte} {q : BindReq} (h : decodeBind p = some q) :
    q.kind.Law ∧ admits q.kind q.source = true := by
  unfold decodeBind at h
  split at h
  · next hk _ _ =>
    split at h
    · next ha => cases h; exact ⟨decodeKind_law hk, ha⟩
    · cases h
  · cases h

/-- A list without a duplicate entry has no repeats (R103). -/
theorem nodup_of_firstDuplicate {l : List SegAddr} (h : firstDuplicate l = none) : l.Nodup := by
  unfold firstDuplicate at h
  rw [List.find?_eq_none] at h
  refine List.pairwise_iff_getElem.2 fun i j hi hj hij e => h j (by simpa using hj) ?_
  simp only [List.contains_eq_mem, decide_eq_true_eq, List.getD_eq_getElem _ _ hj, List.mem_take_iff_getElem]
  exact ⟨i, by omega, e⟩

/-- A list without an owned entry names no owned address (R103). -/
theorem State.firstOwned_eq_none {s : State} {l : List SegAddr} (h : s.firstOwned l = none) :
    ∀ a ∈ l, s.ft.owners[a] = none := by
  intro a ha
  unfold State.firstOwned at h
  rw [List.findSome?_eq_none_iff] at h
  obtain ⟨k, hk, rfl⟩ := List.getElem_of_mem ha
  simpa using h (l[k], k) (by simp [List.mem_zipIdx_iff_getElem?])

/-- The addresses of a list of address bytes that all name one in the current geometry (R103, step 5). -/
theorem State.addrs_eq {s : State} {l : List Byte} (h : l.findIdx? (fun b => (s.addrIn b).isNone) = none) :
    (l.filterMap s.addrIn).length = l.length ∧
      ∀ a ∈ l.filterMap s.addrIn, inGeometry s.gs.settings.duty a = true := by
  rw [List.findIdx?_eq_none_iff] at h
  constructor
  · rw [List.length_filterMap_eq_countP, List.countP_eq_length]
    intro b hb
    have := h b hb
    cases e : s.addrIn b <;> simp_all
  · intro a ha
    obtain ⟨b, -, hb⟩ := List.mem_filterMap.1 ha
    unfold State.addrIn at hb
    split at hb
    · cases hb
    · split at hb
      · next hg => cases hb; exact hg
      · cases hb

/-- A bound field keeps the laws of a field. -/
theorem BindReq.toField_law {p : List Byte} {q : BindReq} {segs : List SegAddr} (hq : decodeBind p = some q)
    (hlen : lengthAllowed q.kind segs.length = true) : (q.toField segs).Law := by
  obtain ⟨hk, ha⟩ := decodeBind_law hq
  refine ⟨hk, by simp [BindReq.toField], ha, hlen, by simp [BindReq.toField], ?_, rfl⟩
  cases q with
  | mk kind look source => cases kind <;> rfl

theorem doBind_moves {p : List Byte} {s : State} (hl : bindLengthOk p = true) (ht : s.takes) :
    Moves s (doBind p s.entered) := by
  unfold doBind
  split
  · exact .refuse ht _ _
  · next q hq =>
    split
    · exact .refuse ht _ _
    · next hlen =>
      split
      · exact .refuse ht _ _
      · next hlive =>
        split
        · exact .refuse ht _ _
        · next f hf =>
          have free : s.field f = none := by
            have := List.find?_some hf
            exact Option.isNone_iff_eq_none.1 this
          unfold State.bindList
          split
          · exact .refuse ht _ _
          · next hidx =>
            obtain ⟨hlength, hgeo⟩ := State.addrs_eq (s := s) hidx
            dsimp only
            split
            · exact .refuse ht _ _
            · next hdup =>
              split
              · exact .refuse ht _ _
              · next hown =>
                have hcount : (p.drop 11).length = (byteAt p 10).toNat := by
                  simp only [bindLengthOk, Bool.and_eq_true, decide_eq_true_eq] at hl
                  simp only [List.length_drop]
                  omega
                have law : (q.toField ((p.drop 11).filterMap s.addrIn)).Law :=
                  BindReq.toField_law hq (by rw [hlength, hcount]; simpa using hlen)
                have bind : Move s (s.bound f (q.toField ((p.drop 11).filterMap s.addrIn))) :=
                  .bind ht free law (by simpa using hlive : s.entered.sourceLive q.source = true) (nodup_of_firstDuplicate hdup) hgeo
                    (State.firstOwned_eq_none (s := s) hown)
                rw [State.bindField_eq]
                exact Moves.answer (u := s.bound f _) ht bind.moves rfl rfl rfl rfl rfl

/-- An answered change of a field's record. -/
theorem Moves.answerField {s : State} {f : FieldIx} {d e : Field} (ht : s.takes) (hd : s.field f = some d)
    (segs : e.segs = d.segs) (law : d.Law → e.Law)
    (live : s.sourceLive d.source = true → s.sourceLive e.source = true) :
    Moves s { s with ft := s.fieldsWith f e, re := s.dirtied [f], hp := s.answered .ok [] } := by
  have write : Move s { s with ft := s.fieldsWith f e } := .rewrite hd segs law live
  have mark := Moves.dirtied (s := { s with ft := s.fieldsWith f e }) (fs := [f]) (by simp) (by
    intro g hg
    rw [State.field_fieldsWith (s := s) rfl]
    simp_all)
  exact Moves.answer ht (mark.head write) rfl rfl rfl rfl rfl

/-- An edit keeps the form of host data and the lengths that a kind takes, and supplies well-formed parameters (R105). -/
theorem editKind_law {k e : FieldKind} {p : List Byte} (h : editKind k p = some e) :
    e.Law ∧ (∀ n, lengthAllowed e n = lengthAllowed k n) ∧ ∀ x, formMatches e x = formMatches k x := by
  cases k with
  | numeric w pts sg dec =>
    simp only [editKind, Option.ite_none_right_eq_some] at h
    obtain ⟨hn, ⟨⟩⟩ := h
    refine ⟨numericOk_iff.1 hn, fun _ => rfl, fun x => ?_⟩
    rcases x with _ | _ | _ | _ <;> rfl
  | bar lo hi =>
    simp only [editKind, Option.ite_none_right_eq_some] at h
    obtain ⟨hlt, ⟨⟩⟩ := h
    refine ⟨⟨mantissaAt_inMantissa p 5, mantissaAt_inMantissa p 7, hlt⟩, fun _ => rfl, fun x => ?_⟩
    rcases x with _ | _ | _ | _ <;> rfl
  | indicator c =>
    obtain ⟨c', -, rfl⟩ := Option.map_eq_some_iff.1 h
    refine ⟨trivial, fun _ => rfl, fun x => ?_⟩
    rcases x with _ | _ | _ | _ <;> rfl
  | pattern =>
    cases h
    exact ⟨trivial, fun _ => rfl, fun _ => rfl⟩

/-- An edit keeps the laws of a field (R105). -/
theorem Field.Law.edited {d : Field} {p : List Byte} {k : FieldKind} {a : Appearance} (h : d.Law)
    (hk : editKind d.kind p = some k) (ha : admits k d.source = true) : (d.edited k a).Law := by
  obtain ⟨-, hdata, -, hlen, hhost, hform, hfit⟩ := h
  obtain ⟨law, length, form⟩ := editKind_law hk
  exact ⟨law, hdata, ha, (length _).trans hlen, hhost, (form _).trans hform, hfit⟩

theorem doEdit_moves {p : List Byte} {s : State} (ht : s.takes) : Moves s (doEdit p s.entered) := by
  unfold doEdit
  split
  · exact .refuse ht _ _
  · refine onField_moves ht fun f d _ hd => ?_
    unfold doEditAccepted
    split
    · exact .refuse ht _ _
    · next hk =>
      split
      · next ha =>
        rw [State.putField_markDirty]
        exact Moves.answerField ht hd rfl (fun h => h.edited hk ha) id
      · exact .refuse ht _ _

/-- Data of no form matches every kind (R128). -/
theorem formMatches_none (k : FieldKind) : formMatches k none = true := by
  cases k <;> rfl

/-- A new source that the kind admits keeps the laws of a field (R106). -/
theorem Field.Law.retargeted {d : Field} {src : Source} (h : d.Law) (ha : admits d.kind src = true) :
    (d.retargeted src).Law := by
  obtain ⟨hlaw, hdata, -, hlen, -, hform, hfit⟩ := h
  by_cases hs : src = .host
  · have e : d.retargeted src = { d with source := src } := by simp [Field.retargeted, hs]
    rw [e]
    exact ⟨hlaw, hdata, ha, hlen, fun _ => hs, hform, hfit⟩
  · have e : d.retargeted src = { d with source := src, hostData := none } := by simp [Field.retargeted, hs]
    rw [e]
    exact ⟨hlaw, by simp, ha, hlen, by simp, formMatches_none _, rfl⟩

theorem doRetarget_moves {p : List Byte} {s : State} (ht : s.takes) : Moves s (doRetarget p s.entered) := by
  unfold doRetarget
  split
  · exact .refuse ht _ _
  · next src _ =>
    refine onField_moves ht fun f d _ hd => ?_
    split
    · exact .refuse ht _ _
    · next hlive =>
      split
      · exact .refuse ht _ _
      · next ha =>
        rw [State.putField_markDirty]
        have hlive : s.sourceLive src = true := by
          change ¬(!s.sourceLive src) = true at hlive
          simpa using hlive
        exact Moves.answerField ht hd rfl (fun h => h.retargeted (by simpa using ha)) fun _ => hlive

theorem doRetireField_moves {p : List Byte} {s : State} (ht : s.takes) : Moves s (doRetireField p s.entered) :=
  onField_moves ht fun f d _ hd => Moves.answer (u := s.retireField f d) ht (Move.unbind hd).moves rfl rfl rfl rfl rfl

theorem doReadOwner_moves {p : List Byte} {s : State} (ht : s.takes) : Moves s (doReadOwner p s.entered) := by
  unfold doReadOwner
  split
  · exact .refuse ht _ _
  · split
    · exact .refuse ht _ _
    · exact .refuse ht _ _

/-- Data on the wire that match the kind and the list of a field are in range (R100, R128). -/
theorem decodeDatum_law {p : List Byte} {x : Option HostDatum} {d : Field} (hx : decodeDatum p = some x)
    (hform : formMatches d.kind x = true) (hfit : patternFits d.segs.length x = true)
    (hlen : lengthAllowed d.kind d.segs.length = true) : ∀ y ∈ x, y.Law := by
  rintro y ⟨⟩
  cases y with
  | value m =>
    unfold decodeDatum at hx
    split at hx
    · cases hx; exact mantissaAt_inMantissa p 2
    · cases e : yesNo (byteAt p 2) <;> simp [e] at hx
    · cases hx
    · cases hx
    · cases hx
  | flag b => trivial
  | pattern e =>
    have hk : d.kind = .pattern := by
      cases hk : d.kind <;> rw [hk] at hform <;> first | rfl | cases hform
    have hfit : e.length = d.segs.length := by simpa [patternFits] using hfit
    rw [hk] at hlen
    simp only [lengthAllowed, Bool.and_eq_true, decide_eq_true_eq] at hlen
    change e.length ≤ 32
    omega

theorem doSetFieldValue_moves {p : List Byte} {s : State} (ht : s.takes) : Moves s (doSetFieldValue p s.entered) := by
  refine onField_moves ht fun f d hok hd => ?_
  obtain ⟨x, hx⟩ := Option.isSome_iff_exists.1 hok
  rw [hx]
  change Moves s (if d.source ≠ .host then _ else if !formMatches d.kind x then _ else
    if !patternFits d.segs.length x then _ else _)
  split
  · exact .refuse ht _ _
  · next hs =>
    have hs : d.source = .host := by simpa using hs
    split
    · exact .refuse ht _ _
    · next hform =>
      split
      · exact .refuse ht _ _
      · next hfit =>
        have hform : formMatches d.kind x = true := by simpa using hform
        have hfit : patternFits d.segs.length x = true := by simpa using hfit
        rw [State.putField_markDirty]
        refine Moves.answerField ht hd rfl (fun h => ?_) id
        obtain ⟨hlaw, -, ha, hlen, -, -, -⟩ := h
        exact ⟨hlaw, decodeDatum_law hx hform hfit hlen, ha, hlen, fun _ => hs, hform, hfit⟩

/-! ## Requests about the glass -/

theorem doSetGlass_moves {p : List Byte} {s : State} (ht : s.takes) : Moves s (doSetGlass p s.entered) := by
  unfold doSetGlass
  split
  · exact .refuse ht _ _
  · next g hg =>
    split
    · exact .refuse ht _ _
    · next hh =>
      split
      · exact .refuse ht _ _
      · next hfit =>
        have hold : s.gs.hold = none := Option.not_isSome_iff_eq_none.1 hh
        exact Move.moves (Move.glassWaits (s := s) (hp := s.waitingPort .setGlass) ⟨ht, rfl, rfl, rfl⟩ hg hold hfit)

theorem doHold_moves {p : List Byte} {s : State} (ht : s.takes) : Moves s (doHold p s.entered) := by
  unfold doHold
  split
  · exact .refuse ht _ _
  · next h0 =>
    have hold : Move s { s with gs := { s.gs with hold := some (byteAt p 0).toNat } } := .hold (.inl ht) fun _ n hn => by
      have hne : (byteAt p 0).toNat ≠ 0 := fun e => h0 (BitVec.eq_of_toNat_eq e)
      have := (byteAt p 0).isLt
      cases hn
      omega
    exact Moves.answer (u := { s with gs := { s.gs with hold := some (byteAt p 0).toNat } }) ht hold.moves rfl rfl rfl rfl rfl

theorem doRelease_moves {s : State} (ht : s.takes) : Moves s (doRelease s.entered) := by
  unfold doRelease
  split
  · have hold : Move s { s with gs := { s.gs with hold := none } } := .hold (.inl ht) fun _ n hn => by cases hn
    exact Moves.answer (u := { s with gs := { s.gs with hold := none } }) ht hold.moves rfl rfl rfl rfl rfl
  · exact .refuse ht _ _

theorem doReadPlane_moves {p : List Byte} {s : State} (ht : s.takes) : Moves s (doReadPlane p s.entered) := by
  unfold doReadPlane
  split
  · exact .refuse ht _ _
  · split
    · exact .refuse ht _ _
    · exact .refuse ht _ _

/-! ## Requests about the attention set -/

/-- A slot has a pair in the set when one of its four marks is present. -/
theorem SlotPairs.any_iff (m : SlotPairs) : m.any = true ↔ ∃ k : Cause, m.get k ≠ .absent := by
  have mark (x : Mark) : x.present.toNat ≠ 0 ↔ x ≠ .absent := by cases x <;> decide
  unfold SlotPairs.any SlotPairs.count
  rw [decide_eq_true_iff]
  constructor
  · intro h
    by_contra hc
    simp only [not_exists, not_not] at hc
    have h1 := hc .result
    have h2 := hc .limit
    have h3 := hc .quality
    have h4 := hc .oneShot
    simp only [SlotPairs.get] at h1 h2 h3 h4
    rw [h1, h2, h3, h4] at h
    exact h rfl
  · rintro ⟨k, hk⟩
    rw [← mark] at hk
    cases k <;> simp only [SlotPairs.get] at hk <;> omega

/-- The marks of a slot after a read. -/
theorem Attention.see_get (a : Attention) (i : Slot) (k : Cause) :
    (a.see.channels[i]).get k = ((a.channels[i]).get k).see := by
  unfold Attention.see
  cases k <;> simp [SlotPairs.get, SlotPairs.map]

/-- The marks of a slot after an acknowledgement. -/
theorem Attention.ack_get (a : Attention) (sel : BitVec 6) (i : Slot) (k : Cause) :
    ((a.ack sel).channels[i]).get k =
      if sel.getLsbD k.bit then ((a.channels[i]).get k).ack else (a.channels[i]).get k := by
  unfold Attention.ack
  cases k <;> simp [SlotPairs.get, Cause.bit]

/-- An attention unit whose marks are present only where they were. -/
theorem Move.fewer {s : State} {au : Attention}
    (h : ∀ (i : Slot) (k : Cause), (s.au.channels[i]).get k = .absent → (au.channels[i]).get k = .absent) :
    Move s { s with au := au } := by
  refine .attention fun i hi => .inl ?_
  rw [SlotPairs.any_iff] at hi ⊢
  obtain ⟨k, hk⟩ := hi
  exact ⟨k, fun e => hk (h i k e)⟩

theorem doReadAttention_moves {s : State} (ht : s.takes) : Moves s (doReadAttention s.entered) := by
  have see : Move s { s with au := s.au.see } := .fewer fun i k h => by rw [Attention.see_get, h]; rfl
  have answer := Moves.answer (hp := s.answered .ok (attentionReport s.au s.ct.slots s.freeIx)) ht see.moves
    rfl rfl rfl rfl rfl
  exact answer.tail (.own _ s.pending (s.freeIx + attentionReportFree))

theorem doAck_moves {p : List Byte} {s : State} (ht : s.takes) : Moves s (doAck p s.entered) := by
  unfold doAck
  split
  · exact .refuse ht _ _
  · next sel _ =>
    have ack : Move s { s with au := s.au.ack sel } := .fewer fun i k h => by
      rw [Attention.ack_get, h]
      split <;> rfl
    exact Moves.answer (u := { s with au := s.au.ack sel }) ht ack.moves rfl rfl rfl rfl rfl

theorem doSetMask_moves {p : List Byte} {s : State} (ht : s.takes) : Moves s (doSetMask p s.entered) := by
  unfold doSetMask
  split
  · exact .refuse ht _ _
  · next m _ =>
    have mask : Move s { s with au := { s.au with mask := m } } := .fewer fun _ _ h => h
    exact Moves.answer (u := { s with au := { s.au with mask := m } }) ht mask.moves rfl rfl rfl rfl rfl

/-! ## RESTART and the host port -/

theorem doRestart_moves {s : State} (ht : s.takes) : Moves s (doRestart s.entered) := by
  have wait := Move.wait (s := s.cleared) (hp := s.waitingPort .restart) (w := .restart) ⟨ht, rfl, rfl, rfl⟩ (by simp)
    (by simp)
  exact (Move.clear ht).moves.tail wait

/-- The end of a transaction is a move of the port's lines. -/
theorem State.shiftOut_move (s : State) (more : List Byte) : Move s (s.shiftOut more) :=
  Move.line_high (s := s) (hp := (s.shiftOut more).hp) rfl rfl rfl rfl

theorem State.clocked_moves (s : State) (n : Nat) : Moves s (s.clocked n) := by
  unfold State.clocked
  split
  · next b hb =>
    split
    · split
      · exact .refl
      · exact Move.moves (.line rfl rfl rfl fun _ b hb => by simp at hb)
    · next hh => exact Move.moves (.line rfl rfl rfl fun held => absurd held hh)
  · exact .refl
  · exact .refl

theorem execFetch_moves (s : State) (part : FetchPart) {t : State} (h : execFetch s part = .next t) : Moves s t := by
  cases h
  cases part with
  | falls => exact Move.moves (.line rfl rfl rfl fun _ _ _ => rfl)
  | clocked n => exact s.clocked_moves n
  | poll => exact (s.shiftOut_move []).moves
  | reads n => exact (s.shiftOut_move _).moves

/-- What a withdrawal leaves does not depend on the host port. -/
theorem State.withdrawn_setHp (s : State) (i : Slot) (c : Channel) (hp : HostPort) :
    ({ s with hp := hp } : State).withdrawn i c = { s.withdrawn i c with hp := hp } := by
  unfold State.withdrawn
  split
  · rfl
  · change (if s.converting i = true then _ else _) = _
    split
    · rfl
    · split <;> rfl

theorem State.withdrawn_hp (s : State) (i : Slot) (c : Channel) : (s.withdrawn i c).hp = s.hp := by
  obtain ⟨_, _, e, -⟩ := s.withdrawn_frame i c
  rw [e]

theorem State.cancelWaiting_moves (s : State) : Moves s s.cancelWaiting := by
  unfold State.cancelWaiting
  split
  · next i hw =>
    have ends : Move s { s with hp := s.ended .cancelled [] } :=
      .ends (w := .measureNow i) ⟨hw, rfl, rfl, rfl⟩ (by simp)
    cases hc : s.channel i with
    | none =>
      rw [State.cancelMeasure_none hc]
      exact ends.moves.tail (.pick _)
    | some c =>
      rw [State.cancelMeasure_eq hc]
      have withdraw := Move.withdraw (s := { s with hp := s.ended .cancelled [] }) hc rfl
      rw [State.withdrawn_setHp] at withdraw
      have e : (s.withdrawn i c).respond .cancelled [] = { s.withdrawn i c with hp := s.ended .cancelled [] } := by
        rw [State.respond_eq]
        unfold State.ended
        rw [State.withdrawn_hp]
      rw [e]
      exact ends.moves.tail withdraw
  · next hw => exact Move.moves (.glassEnds (hp := s.ended .cancelled []) ⟨hw, rfl, rfl, rfl⟩)
  · exact .refl
  · exact .refl

theorem execCancel_moves {s t : State} (h : execCancel s = .next t) : Moves s t := by
  cases h
  split
  · exact (s.shiftOut_move []).moves
  · exact (State.cancelWaiting_moves _).head (s.shiftOut_move [])

/-- A frame that the port drops, or does not judge. -/
theorem commandFrame_id_moves {s : State} (h : ¬s.takes) : Moves s (commandFrame id s) :=
  commandFrame_moves fun ht => absurd ht h

theorem execCommandDropped_moves {s t : State} (h : execCommandDropped s = .next t) : Moves s t := by
  cases h
  have deaf (hd : s.deaf = true) : ¬s.takes := fun ht => by rw [State.deaf_eq ht.1] at hd; cases hd
  split
  · next hp => exact commandFrame_id_moves fun ht => by simp [State.takes, hp] at ht
  · next hp => exact commandFrame_id_moves fun ht => by simp [State.takes, hp] at ht
  · split
    · next hd => exact commandFrame_id_moves (deaf hd)
    · exact .refl
  · split
    · next hd => exact commandFrame_id_moves (deaf hd)
    · exact .refl

/-- A frame answered at once, which comes only where its condition holds (R166, R167). -/
theorem frameRefused_moves (b : Bool) (code : ResultCode) (s : State) :
    Moves s (if b then commandFrame (fun s => s.respond code []) s else s) := by
  split
  · exact commandFrame_moves fun ht => .refuse ht _ _
  · exact .refl

/-! ## The engine's events -/

/-- The end of a MEASURE_NOW, when it waits for this completion, and nothing else. -/
theorem Moves.endMeasure (s : State) (i : Slot) (p : List Byte) : ∃ hp,
    (if s.hp.waiting = some (.measureNow i) then s.ended .ok p else s.hp) = hp ∧
      hp.waiting ≠ some (.measureNow i) ∧ Moves s { s with hp := hp } := by
  by_cases hw : s.hp.waiting = some (.measureNow i)
  · refine ⟨s.ended .ok p, if_pos hw, by simp [State.ended], ?_⟩
    exact Move.moves (.ends (w := .measureNow i) ⟨hw, rfl, rfl, rfl⟩ (by simp))
  · exact ⟨s.hp, if_neg hw, hw, .refl⟩

theorem State.complete_moves {s : State} {v : Conversion} {e : Ending} (hv : s.ce.conv = some v)
    (he : v.count ≤ maxCount → e.InRange) : Moves s (s.complete v.channel e) := by
  cases hc : s.channel v.channel with
  | none =>
    have hstop : s.complete v.channel e = s.stopEngine.pick := by simp only [State.complete, hc]
    rw [hstop]
    exact (Move.stop hv hc).moves
  | some c =>
    rw [State.complete_eq e hc]
    obtain ⟨hp, ehp, hw, ends⟩ := Moves.endMeasure s v.channel (resultPart (c.completed (s.refResult c) e))
    unfold State.completedWith
    rw [ehp]
    set r := c.completed (s.refResult c) e with hr
    set l : Bool := decide (r.limit ≠ c.result.limit)
    set q : Bool := decide (r.outcome ≠ c.result.outcome) || decide (c.result.freshness ≠ some .fresh)
    set o : Bool := c.sched.oneShot && c.sched.notice
    have raise : Move { s with hp := hp } { s with hp := hp, au := s.pairsRaised v.channel c.defn.notify l q o } :=
      Move.raised (s := { s with hp := hp }) (by change (s.channel _).isSome = true; rw [hc]; rfl) _ _ _ _
    have mark := Moves.dirtied (s := { s with hp := hp, au := s.pairsRaised v.channel c.defn.notify l q o })
      (s.fieldsOf_nodup v.channel) s.fieldsOf_live
    have finish := Move.complete (r := r) (s := { s with
      hp := hp, au := s.pairsRaised v.channel c.defn.notify l q o, re := s.dirtied (s.fieldsOf v.channel) }) hv hc hw
      fun hn hlaw => hlaw.completed (he hn) _
    exact ((ends.tail raise).trans mark).tail finish

theorem State.countOne_moves {s : State} {v w : Conversion} (hv : s.ce.conv = some v) (h : v.Goes w) :
    Moves s (s.countOne w) := by
  unfold State.countOne
  split
  · rw [h.channel]
    exact State.complete_moves hv fun _ => trivial
  · next hn => exact Move.moves (.convert hv ⟨h.channel, h.method, h.countLen, h.timeout, fun _ => by dsimp only; omega⟩)

theorem Conversion.Goes.restartEdge (v : Conversion) : v.Goes v.restartEdge := ⟨rfl, rfl, rfl, rfl, id⟩

theorem Conversion.Goes.settleEdge (v : Conversion) : v.Goes v.settleEdge := by
  unfold Conversion.settleEdge
  dsimp only
  split <;> exact ⟨rfl, rfl, rfl, rfl, id⟩

theorem State.periodEdge_moves {s : State} {v : Conversion} (hv : s.ce.conv = some v) : Moves s (s.periodEdge v) := by
  unfold State.periodEdge
  split
  · split
    · exact State.complete_moves hv id
    · exact Move.moves (.convert hv ⟨rfl, rfl, rfl, rfl, id⟩)
  · exact Move.moves (.convert hv ⟨rfl, rfl, rfl, rfl, id⟩)

theorem State.sensorEdge_moves (s : State) : Moves s s.sensorEdge := by
  unfold State.sensorEdge
  split
  · exact .refl
  · next v hv =>
    split
    · exact Move.moves (.convert hv (.settleEdge v))
    · exact State.countOne_moves hv (.restartEdge v)
    · exact State.periodEdge_moves hv

theorem State.fastPeriod_moves (s : State) : Moves s s.fastPeriod := by
  unfold State.fastPeriod
  split
  · exact .refl
  · next v hv =>
    split
    · exact State.countOne_moves hv ⟨rfl, rfl, rfl, rfl, id⟩
    · exact .refl

theorem State.gateExpiry_moves (s : State) : Moves s s.gateExpiry := by
  unfold State.gateExpiry
  split
  · exact .refl
  · next v hv =>
    split
    · exact State.complete_moves hv id
    · exact .refl

theorem State.edgeExpiry_moves (s : State) : Moves s s.edgeExpiry := by
  unfold State.edgeExpiry
  split
  · exact .refl
  · next v hv => exact State.complete_moves hv fun _ => trivial

theorem State.counterOverflow_moves (s : State) : Moves s s.counterOverflow := by
  unfold State.counterOverflow
  split
  · exact .refl
  · next v hv =>
    split
    · exact State.complete_moves hv fun _ => trivial
    · exact .refl

/-! ## The base tick -/

theorem State.tickInterval_moves (s : State) (i : Slot) : Moves s (s.tickInterval i) := by
  unfold State.tickInterval
  split
  · exact .refl
  · next c hc =>
    split
    · next ha =>
      split
      · exact .refl
      · next n hn =>
        split
        · rw [State.expireInterval_eq]
          exact (Move.expire hc ha.1).moves
        · next h1 => exact (Move.countdown hc ha.1 hn (by omega)).moves
    · exact .refl

theorem State.tickAge_moves (s : State) (i : Slot) : Moves s (s.tickAge i) := by
  cases hc : s.channel i with
  | none => simp only [State.tickAge, hc]; exact .refl
  | some c =>
    cases hs : c.staleNext with
    | false =>
      have e : c.older = { c with result := { c.result with age := c.result.age.map olderBy1 } } := by
        unfold Channel.older
        simp only [hs, Bool.false_eq_true, if_false]
      rw [State.tickAge_fresh hc hs]
      exact Move.moves (.record hc rfl rfl rfl fun h => by rw [← e]; exact h.older)
    | true =>
      have e : c.older = { c with
          result := { c.result with age := c.result.age.map olderBy1, freshness := some .stale } } := by
        unfold Channel.older
        simp only [hs, if_true]
      have aged := Moves.record (d := c.older) hc rfl rfl rfl (fun h => h.older) false false true false
      rw [State.tickAge_stale hc hs]
      rwa [e] at aged

theorem BlinkPhase.InRange.tick {b : BlinkPhase} {n : Nat} (h : b.InRange n) : (b.tick n).InRange n := by
  unfold BlinkPhase.tick BlinkPhase.InRange at *
  split <;> dsimp only <;> omega

theorem State.tickHold_moves (s : State) : Moves s s.tickHold := by
  unfold State.tickHold
  split
  · exact .refl
  · next n hn =>
    have running : s.gs.hold.isSome = true := by rw [hn]; rfl
    split
    · have ends : Move s { s with gs := { s.gs with hold := none } } := .hold (.inr running) fun _ n hn => by cases hn
      have raise : Move { s with gs := { s.gs with hold := none } } _ :=
        .fewer (au := s.au.raiseHold) fun _ _ h => h
      exact ends.moves.tail raise
    · refine Move.moves (.hold (.inr running) fun h m hm => ?_)
      have := h n hn
      cases hm
      omega

theorem State.tick_moves (s : State) (o : TickOwner) : Moves s (s.tick o) := by
  cases o with
  | interval i => exact s.tickInterval_moves i
  | age i => exact s.tickAge_moves i
  | blink rate =>
    cases rate
    · exact Move.moves (.blink (fun h => h.tick) id)
    · exact Move.moves (.blink id fun h => h.tick)
  | hold => exact s.tickHold_moves
  | restart =>
    change Moves s s.tickRestart
    rw [State.tickRestart_eq]
    split
    · next hw =>
      have ends : Move s { s with hp := s.ended .ok [] } := .ends (w := .restart) ⟨hw, rfl, rfl, rfl⟩ (by simp)
      have raise : Move { s with hp := s.ended .ok [] } _ :=
        .fewer (au := { s.au with restarted := some { reason := .command, seen := false } }) fun _ _ h => h
      exact ends.moves.tail raise
    · exact .refl

theorem State.ticks_moves (s : State) (os : List TickOwner) : Moves s (os.foldl State.tick s) := by
  induction os generalizing s with
  | nil => exact .refl
  | cons o rest ih => exact (s.tick_moves o).trans (ih _)

theorem State.baseTick_moves (s : State) : Moves s s.baseTick := by
  unfold State.baseTick
  split
  · exact .refl
  · exact (s.ticks_moves _).tail (.clock ⟨id, rfl, fun _ => le_refl 512, id⟩)

theorem State.expire_moves (s : State) (o : TickOwner) : Moves s (s.expire o) := by
  unfold State.expire
  split
  · exact .refl
  · split
    · exact .refl
    · split
      · exact (s.tick_moves o).tail (.clock ⟨id, rfl, id, id⟩)
      · exact .refl

/-! ## The clock unit and the frame end -/

theorem State.slowPeriod_moves (s : State) : Moves s s.slowPeriod := by
  unfold State.slowPeriod
  split
  · exact .refl
  · have clock : Move s { s with csu := { s.csu with
        divider := s.csu.divider - 1, initCount := s.csu.initCount.map fun n => n - 1 } } := by
      refine .clock ⟨id, rfl, fun h => by dsimp only; omega, fun h n hn => ?_⟩
      obtain ⟨m, hm, rfl⟩ := Option.map_eq_some_iff.1 hn
      have := h m hm
      omega
    have frame := Move.frame (s := { s with csu := { s.csu with
        divider := s.csu.divider - 1, initCount := s.csu.initCount.map fun n => n - 1 } })
      s.gs.shown s.gs.drive s.re.changed (timer := s.gs.frameTimer - 1) fun h => Nat.le_trans (Nat.sub_le _ _) h
    cases hv : s.ce.conv with
    | none =>
      have e : ({ s.ce with conv := Option.map Conversion.slowPeriod none } : Engine) = s.ce := by
        rw [← hv]
        exact congrArg (fun v => ({ s.ce with conv := v } : Engine)) (by rw [hv]; rfl)
      change Moves s { s with csu := _, gs := _, ce := { s.ce with conv := Option.map Conversion.slowPeriod none } }
      rw [e]
      exact clock.moves.tail frame
    | some v =>
      have go : v.Goes v.slowPeriod := ⟨rfl, rfl, rfl, rfl, id⟩
      exact (clock.moves.tail frame).tail (.convert hv go)

theorem FramePeriod.periods_le (p : FramePeriod) : p.periods ≤ 1024 := by
  cases p <;> decide

theorem State.release_moves (s : State) (xsel : Bool) : Moves s (s.release xsel) := by
  unfold State.release
  split
  · have clock : Move s { s with csu := { s.csu with
        held := false, source := if xsel then .internal else .crystal, divider := 512
        initCount := some initPeriods } } := by
      refine .clock ⟨by simp, rfl, fun _ => le_refl 512, fun _ n hn => ?_⟩
      cases hn
      exact le_refl 1024
    exact clock.moves.tail (.frame s.gs.shown s.gs.drive s.re.changed fun _ => s.gs.settings.period.periods_le)
  · exact .refl

theorem State.initEnd_moves (s : State) : Moves s s.initEnd := by
  unfold State.initEnd
  split
  · next h =>
    have port : Move s { s with
        hp := { s.hp with port := .idle, powerOn := s.hp.powerOn || decide (s.csu.reason = .powerOn) } } :=
      .initialised h.1 h.2 rfl rfl rfl
    have raise := Move.fewer (s := { s with
      hp := { s.hp with port := .idle, powerOn := s.hp.powerOn || decide (s.csu.reason = .powerOn) } })
      (au := s.au.raiseRestarted s.csu.reason) fun _ _ h => h
    exact (port.moves.tail raise).tail (.clock ⟨id, rfl, id, fun _ n hn => by cases hn⟩)
  · exact .refl

theorem State.frameEnd_moves (s : State) : Moves s s.frameEnd := by
  unfold State.frameEnd
  split
  · exact .refl
  · next held =>
    have apply' : Move s s.applySettings := .apply (by simpa using held)
    have commit (u : State) : Moves u u.commit := by
      unfold State.commit
      split
      · exact Move.moves (.frame u.re.plane u.gs.drive false id)
      · exact .refl
    have begin' (u : State) : Move u u.beginFrame :=
      .frame u.gs.shown _ u.re.changed fun _ => u.gs.settings.period.periods_le
    exact (apply'.moves.trans (commit _)).tail (begin' _)

theorem State.render_moves (s : State) : Moves s s.render := by
  unfold State.render
  split
  · exact .refl
  · next f rest hq =>
    have unqueue : Move s { s with re := { s.re with queue := rest } } := .unqueue hq
    dsimp only
    split
    · exact unqueue.moves
    · next d hd => exact unqueue.moves.tail (.draw hd)

/-! ## Commands and steps -/

/-- A command that is an operation on the state runs the chain of moves of the operation. -/
theorem Moves.of_next {s t u : State} (h : (.next u : Host.Outcome State Fault Refusal) = .next t) (hm : Moves s u) :
    Moves s t := by
  cases h
  exact hm

/-- Every command is a chain of moves. -/
theorem exec_moves {c : Instr} {s t : State} (h : exec c s = .next t) : Moves s t := by
  cases c with
  | readStatus _ =>
    refine .of_next h (hostRequest_moves fun _ ht => ?_)
    exact Moves.answer (u := s) (hp := { s.answered .ok s.statusReport with powerOn := false }) ht .refl rfl rfl rfl rfl rfl
  | restart _ => exact .of_next h (hostRequest_moves fun _ => doRestart_moves)
  | defineChannel p => exact .of_next h (hostRequest_moves fun _ => doDefine_moves)
  | modifyChannel p => exact .of_next h (hostRequest_moves fun _ => doModify_moves)
  | retireChannel p => exact .of_next h (hostRequest_moves fun _ => doRetire_moves)
  | readChannel _ => exact .of_next h (hostRequest_moves fun _ ht => onChannel_moves ht fun _ _ _ _ => .refuse ht _ _)
  | findChannel p => exact .of_next h (hostRequest_moves fun _ => doFind_moves)
  | startChannel p => exact .of_next h (hostRequest_moves fun _ => doStart_moves)
  | suspendChannel p => exact .of_next h (hostRequest_moves fun _ => doSuspend_moves)
  | measureNow p => exact .of_next h (hostRequest_moves fun _ => doMeasure_moves)
  | pauseSchedule _ => exact .of_next h (hostRequest_moves fun _ => doPause_moves)
  | resumeSchedule _ => exact .of_next h (hostRequest_moves fun _ => doResume_moves)
  | setCurve p => exact .of_next h (hostRequest_moves fun _ => doSetCurve_moves)
  | setLimits p => exact .of_next h (hostRequest_moves fun _ => doSetLimits_moves)
  | setStaleLimit p => exact .of_next h (hostRequest_moves fun _ => doSetStaleLimit_moves)
  | bindField p => exact .of_next h (hostRequest_moves doBind_moves)
  | editField p => exact .of_next h (hostRequest_moves fun _ => doEdit_moves)
  | retargetField p => exact .of_next h (hostRequest_moves fun _ => doRetarget_moves)
  | retireField p => exact .of_next h (hostRequest_moves fun _ => doRetireField_moves)
  | readField _ => exact .of_next h (hostRequest_moves fun _ ht => onField_moves ht fun _ _ _ _ => .refuse ht _ _)
  | readOwner p => exact .of_next h (hostRequest_moves fun _ => doReadOwner_moves)
  | setFieldValue p => exact .of_next h (hostRequest_moves fun _ => doSetFieldValue_moves)
  | setGlass p => exact .of_next h (hostRequest_moves fun _ => doSetGlass_moves)
  | holdDisplay p => exact .of_next h (hostRequest_moves fun _ => doHold_moves)
  | releaseDisplay _ => exact .of_next h (hostRequest_moves fun _ => doRelease_moves)
  | readPlane p => exact .of_next h (hostRequest_moves fun _ => doReadPlane_moves)
  | readAttention _ => exact .of_next h (hostRequest_moves fun _ => doReadAttention_moves)
  | ackAttention p => exact .of_next h (hostRequest_moves fun _ => doAck_moves)
  | setAttentionMask p => exact .of_next h (hostRequest_moves fun _ => doSetMask_moves)
  | frameError _ => exact .of_next h (frameRefused_moves _ .badFrame s)
  | unknownCommand _ _ => exact .of_next h (frameRefused_moves _ .unknownCommand s)
  | commandDropped => exact execCommandDropped_moves h
  | fetch part => exact execFetch_moves s part h
  | cancel => exact execCancel_moves h
  | powerOnReset => exact .of_next h (Move.reset s _).moves
  | rstnAsserted =>
    refine .of_next h ?_
    split
    · exact (Move.reset s _).moves
    · exact (Move.reset s _).moves
  | resetRelease xsel => exact .of_next h (s.release_moves xsel)
  | initialisationEnd => exact .of_next h s.initEnd_moves
  | restartEnd => exact .of_next h (s.expire_moves _)
  | baseTick => exact .of_next h s.baseTick_moves
  | intervalExpiry _ => exact .of_next h (s.expire_moves _)
  | staleLimitExpiry _ => exact .of_next h (s.expire_moves _)
  | holdExpiry => exact .of_next h (s.expire_moves _)
  | blinkToggle _ => exact .of_next h (s.expire_moves _)
  | frameEnd => exact .of_next h s.frameEnd_moves
  | pick => exact .of_next h (Move.pick s).moves
  | sensorEdge => exact .of_next h s.sensorEdge_moves
  | gateExpiry => exact .of_next h s.gateExpiry_moves
  | edgeTimerExpiry => exact .of_next h s.edgeExpiry_moves
  | counterOverflow => exact .of_next h s.counterOverflow_moves
  | render => exact .of_next h s.render_moves
  | fastClockPeriod => exact .of_next h s.fastPeriod_moves

/-- Every step is a chain of moves: the part's own event or a slow-clock period, or the command at the queue's front. -/
theorem step_moves {s t : State} (h : step s = .next t) : Moves s t := by
  unfold step at h
  split at h
  · unfold idle at h
    split at h
    · exact .of_next h s.slowPeriod_moves
    · exact exec_moves h
  · next rest _ => exact (exec_moves h).head (.own s rest s.freeIx)

/-- A law that every move keeps is kept by every step. -/
theorem step_keeps {P : State → Prop} (h : ∀ s t, P s → Move s t → P t) (s t : State) (hs : P s)
    (hstep : step s = .next t) : P t :=
  (step_moves hstep).keeps h hs

end Sys2Proof.Machine

/-! SUPPORT. O55: the tag map, the pin map and the references under every move. -/

namespace Sys2Proof.Machine

/-- The table's laws speak of the definitions, the tag map and the pin map alone. -/
theorem TableLaws.congr {s t : State} (h : TableLaws s)
    (defn : ∀ j, (t.channel j).map Channel.defn = (s.channel j).map Channel.defn)
    (tags : t.ct.tags = s.ct.tags) (pins : t.ct.pins = s.ct.pins) : TableLaws t := by
  obtain ⟨hpin, ⟨htag, huniq⟩, href⟩ := h
  have same {j : Slot} {c : Channel} (hc : t.channel j = some c) : ∃ d ∈ s.channel j, d.defn = c.defn := by
    have := defn j
    rw [hc] at this
    exact Option.map_eq_some_iff.1 this.symm
  have back {j : Slot} {d : Channel} (hd : s.channel j = some d) : ∃ c ∈ t.channel j, c.defn = d.defn := by
    have := defn j
    rw [hd] at this
    exact Option.map_eq_some_iff.1 this
  refine ⟨fun i p => ?_, ⟨fun i => ?_, by rw [tags]; exact huniq⟩, fun i c hc l hl => ?_⟩
  · rw [pins, hpin]
    constructor
    · rintro ⟨d, hd, rfl⟩
      obtain ⟨c, hc, e⟩ := back hd
      exact ⟨c, hc, by rw [e]⟩
    · rintro ⟨c, hc, rfl⟩
      obtain ⟨d, hd, e⟩ := same hc
      exact ⟨d, hd, by rw [e]⟩
  · have := congrArg (Option.map ChannelDef.tag) (defn i)
    rw [Option.map_map, Option.map_map] at this
    rw [tags, htag]
    exact this.symm
  · obtain ⟨d, hd, e⟩ := same hc
    obtain ⟨hne, r, hr, h1, h2, h3⟩ := href i d hd l (by rw [e]; exact hl)
    obtain ⟨r', hr', e'⟩ := back hr
    exact ⟨hne, r', hr', by rw [e', h1], by rw [e', h2, e], by rw [e', h3, e]⟩

/-- A pick keeps the table's laws. -/
theorem TableLaws.pick {s : State} (h : TableLaws s) : TableLaws s.pick :=
  h.congr (s.pick_channel_map Channel.defn fun _ => rfl) s.pick_tags s.pick_pins

/-- A write of one record that keeps its definition keeps the table's laws. -/
theorem TableLaws.write {s t : State} {i : Slot} {c d : Channel} (h : TableLaws s) (hc : s.channel i = some c)
    (ht : t.ct = s.tableWith i d) (hd : d.defn = c.defn) : TableLaws t :=
  h.congr (State.channel_map_tableWith Channel.defn ht hc hd) (by rw [ht]; rfl) (by rw [ht]; rfl)

/-- An empty table keeps its laws. -/
theorem TableLaws.empty {s : State} (hc : ∀ j, s.channel j = none) (tags : s.ct.tags = Vector.replicate 8 none)
    (pins : s.ct.pins = Vector.replicate 8 none) : TableLaws s := by
  refine ⟨fun i p => ?_, ⟨fun i => ?_, fun i j _ hi => ?_⟩, fun i c hi => ?_⟩
  · simp [hc, pins]
  · simp [hc, tags]
  · simp [tags] at hi
  · rw [hc] at hi; cases hi

/-- A definition that passes the reference check refers to a live channel that it matches (R7). -/
theorem State.refCheck_sound {s : State} {target : Option Slot} {q : DefReq} (h : s.refCheck target q = none) :
    ∀ l ∈ q.toDef.reference, target ≠ some l.slot ∧
      ∃ r ∈ s.channel l.slot, r.defn.reference = none ∧ r.defn.method = q.method ∧ r.defn.countLen = q.countLen := by
  rintro l hl
  obtain ⟨r, hr, rfl⟩ := Option.map_eq_some_iff.1 hl
  unfold State.refCheck at h
  rw [hr] at h
  cases ha : s.accept r.slot r.gen with
  | none => simp [ha] at h
  | some c =>
    simp only [ha, ite_eq_right_iff, reduceCtorEq, imp_false, not_or, Option.not_isSome_iff_eq_none, not_not] at h
    exact ⟨h.1, c, (State.accept_eq_some.1 ha).2, h.2⟩

/-- The slots to which the tag map gives a tag (R5). -/
theorem State.tagSlot_eq_none {s : State} {t : Tag} (h : s.tagSlot t = none) (j : Slot) : s.ct.tags[j] ≠ some t := by
  unfold State.tagSlot at h
  rw [List.find?_eq_none] at h
  simpa using h j (List.mem_finRange j)

/-- A slot has a referrer exactly when a live channel's reference names it (R8). -/
theorem State.hasReferrer_iff {s : State} {i : Slot} :
    s.hasReferrer i = true ↔ ∃ j, ∃ c ∈ s.channel j, ∃ l ∈ c.defn.reference, l.slot = i := by
  simp [State.hasReferrer, Option.any_eq_true]

/-- A record entered in a slot, with its tag and pin and no other channel's, keeps the table's laws when its reference
is sound and its referrers still match it. -/
theorem TableLaws.enter {s t : State} {i : Slot} {d : Channel} (h : TableLaws s)
    (channel : ∀ j, t.channel j = if j = i then some d else s.channel j)
    (tags : t.ct.tags = vput s.ct.tags i (some d.defn.tag))
    (pins : ∀ (j : Slot) (p : Pin), t.ct.pins[p] = some j ↔ if j = i then d.defn.pin = p else s.ct.pins[p] = some j)
    (fresh : ∀ j, j ≠ i → s.ct.tags[j] ≠ some d.defn.tag)
    (sound : ∀ l ∈ d.defn.reference, l.slot ≠ i ∧ ∃ r ∈ s.channel l.slot,
      r.defn.reference = none ∧ r.defn.method = d.defn.method ∧ r.defn.countLen = d.defn.countLen)
    (referred : ∀ j, j ≠ i → ∀ c ∈ s.channel j, ∀ l ∈ c.defn.reference, l.slot = i →
      d.defn.reference = none ∧ d.defn.method = c.defn.method ∧ d.defn.countLen = c.defn.countLen) : TableLaws t := by
  obtain ⟨hpin, ⟨htag, huniq⟩, href⟩ := h
  refine ⟨fun j p => ?_, ⟨fun j => ?_, fun j k hjk hj => ?_⟩, fun j c hc l hl => ?_⟩
  · rw [pins, channel]
    split
    · simp
    · exact hpin j p
  · rw [tags, vput_get, channel]
    split
    · rfl
    · exact htag j
  · simp only [tags, vput_get] at hjk hj
    by_cases e1 : j = i <;> by_cases e2 : k = i
    · rw [e1, e2]
    · rw [if_pos e1, if_neg e2] at hjk
      exact absurd hjk.symm (fresh k e2)
    · rw [if_neg e1, if_pos e2] at hjk
      exact absurd hjk (fresh j e1)
    · rw [if_neg e1, if_neg e2] at hjk
      rw [if_neg e1] at hj
      exact huniq j k hjk hj
  · rw [channel] at hc
    split at hc
    · next e =>
      subst e
      cases hc
      obtain ⟨hne, r, hr, hr'⟩ := sound l hl
      exact ⟨hne, r, by rw [channel, if_neg hne]; exact hr, hr'⟩
    · next e =>
      obtain ⟨hne, r, hr, hr'⟩ := href j c hc l hl
      refine ⟨hne, ?_⟩
      by_cases hli : l.slot = i
      · exact ⟨d, by rw [channel, if_pos hli]; rfl, referred j e c hc l hl hli⟩
      · exact ⟨r, by rw [channel, if_neg hli]; exact hr, hr'⟩

/-- A defined channel keeps the table's laws (R9, R10). -/
theorem TableLaws.define {s : State} {i : Slot} {q : DefReq} (h : TableLaws s) (free : s.channel i = none)
    (check : s.defineCheck q = none) : TableLaws (s.enterChannel i q) := by
  have ⟨hpin, _, href⟩ := h
  simp only [State.defineCheck, Option.isSome_iff_ne_none, ite_not] at check
  split at check
  · next htag =>
    split at check
    · next hq =>
      refine h.enter (d := newChannel q) (State.putChannel_channel s i · (newChannel q)) rfl (fun j p => ?_)
        (fun j _ => State.tagSlot_eq_none htag j) (fun l hl => ?_) fun j _ c hc l hl hli => ?_
      · change (vput s.ct.pins q.pin (some i))[p] = some j ↔ if j = i then q.pin = p else _
        rw [vput_get]
        have none_i : s.ct.pins[p] ≠ some i := fun hp => by
          obtain ⟨c, hc, -⟩ := (hpin i p).1 hp
          rw [free] at hc; cases hc
        by_cases hp : p = q.pin
        · subst hp
          rw [hq]
          simp [eq_comm]
        · rw [if_neg hp]
          split
          · next e => rw [e]; exact ⟨fun h => absurd h none_i, fun h => absurd h.symm hp⟩
          · rfl
      · obtain ⟨-, r, hr, hr'⟩ := State.refCheck_sound check l hl
        refine ⟨fun e => ?_, r, hr, hr'⟩
        rw [e, free] at hr; cases hr
      · obtain ⟨-, r, hr, -⟩ := href j c hc l hl
        rw [hli, free] at hr; cases hr
    · cases check
  · cases check

/-- A modified channel keeps the table's laws (R11, R13). -/
theorem TableLaws.modify {s t : State} {i : Slot} {c : Channel} {q : DefReq} (h : TableLaws s)
    (hc : s.channel i = some c) (check : s.modifyCheck i c q = none)
    (ht : t.ct = { slots := (s.tableWith i (c.modified q)).slots
                   tags := vput s.ct.tags i (some q.tag)
                   pins := vput (vput s.ct.pins c.defn.pin none) q.pin (some i) }) : TableLaws t := by
  have ⟨hpin, ⟨htag, huniq⟩, href⟩ := h
  have channel (j : Slot) : t.channel j = if j = i then some (c.modified q) else s.channel j := by
    have e : t.channel j = (s.putChannel i (c.modified q)).channel j := by unfold State.channel; rw [ht]; rfl
    rw [e, State.putChannel_channel]
  unfold State.modifyCheck at check
  split at check; · cases check
  split at check; · cases check
  next htagq =>
  split at check; · cases check
  next hpinq =>
  split at check; · cases check
  next hrefq =>
  split at check; · cases check
  next hreferrer =>
  have hpinc := (hpin i c.defn.pin).2 ⟨c, hc, rfl⟩
  refine h.enter channel (by rw [ht]; rfl) (fun j p => ?_) (fun j hj e => ?_) (fun l hl => ?_) fun j hj d hd l hl hli => ?_
  · rw [ht]
    change (vput (vput s.ct.pins c.defn.pin none) q.pin (some i))[p] = some j ↔ if j = i then q.pin = p else _
    rw [vput_get, vput_get]
    have other (hp : s.ct.pins[q.pin] = some j) : j = i := by
      simpa [hp] using hpinq
    have own (hp : s.ct.pins[p] = some i) : p = c.defn.pin := by
      obtain ⟨d, hd, rfl⟩ := (hpin i p).1 hp
      rw [hc] at hd; cases hd; rfl
    by_cases hp : p = q.pin
    · subst hp
      by_cases e : j = i
      · simp [e]
      · simp only [if_true, if_neg e, Option.some.injEq]
        exact ⟨fun h => absurd h.symm e, fun h => absurd (other h) e⟩
    · by_cases e : j = i
      · subst e
        simp only [if_neg hp, if_true]
        refine ⟨fun h => ?_, fun h => absurd h.symm hp⟩
        split at h
        · cases h
        · next hne => exact absurd (own h) hne
      · simp only [if_neg hp, if_neg e]
        split
        · next hpc =>
          subst hpc
          rw [hpinc]
          simp [Ne.symm e]
        · rfl
  · obtain ⟨k, hk, hkt⟩ := State.tagSlot_some e
    have hki : k = i := by
      change s.tagSlot q.tag = some k at hk
      simpa [hk] using htagq
    exact hj (huniq j i (e.trans (hki ▸ hkt).symm) (by rw [e]; rfl))
  · obtain ⟨hne, r, hr, hr'⟩ := State.refCheck_sound hrefq l hl
    exact ⟨fun e => hne (by rw [e]), r, hr, hr'⟩
  · have hreferred : s.hasReferrer i = true := State.hasReferrer_iff.2 ⟨j, d, hd, l, hl, hli⟩
    obtain ⟨-, r, hr, -, hm, hn⟩ := href j d hd l hl
    rw [hli, hc] at hr
    cases hr
    simp only [hreferred, true_and, not_or, not_not, Option.not_isSome_iff_eq_none] at hreferrer
    obtain ⟨h1, h2, h3⟩ := hreferrer
    exact ⟨by simp [Channel.modified, DefReq.toDef, h3], h1.trans hm, h2.trans hn⟩

/-- The channels of a table with one slot freed. -/
theorem State.channel_freed {s t : State} {i : Slot} {p : Pin} (h : t.ct = s.ct.freed i p) (j : Slot) :
    t.channel j = if j = i then none else s.channel j := by
  unfold State.channel
  rw [h]
  simp only [ChannelTable.freed, vput_get]
  split <;> rfl

/-- A retired channel without a referrer keeps the table's laws (R15, R16). -/
theorem TableLaws.retire {s t : State} {i : Slot} {c : Channel} (h : TableLaws s) (hc : s.channel i = some c)
    (referrer : s.hasReferrer i = false) (ht : t.ct = s.ct.freed i c.defn.pin) : TableLaws t := by
  obtain ⟨hpin, ⟨htag, huniq⟩, href⟩ := h
  have channel := State.channel_freed ht
  have hpinc := (hpin i c.defn.pin).2 ⟨c, hc, rfl⟩
  refine ⟨fun j p => ?_, ⟨fun j => ?_, fun j k hjk hj => ?_⟩, fun j d hd l hl => ?_⟩
  · rw [channel, ht]
    change (vput s.ct.pins c.defn.pin none)[p] = some j ↔ _
    rw [vput_get]
    by_cases e : j = i
    · subst e
      simp only [if_true, Option.mem_def, reduceCtorEq, false_and, exists_false, iff_false]
      split
      · simp
      · next hp =>
        intro hpj
        obtain ⟨d, hd, rfl⟩ := (hpin j p).1 hpj
        rw [hc] at hd; cases hd
        exact hp rfl
    · simp only [if_neg e]
      split
      · next hp =>
        subst hp
        rw [← hpin, hpinc]
        simp [Ne.symm e]
      · exact hpin j p
  · rw [channel, ht]
    change (vput s.ct.tags i none)[j] = _
    rw [vput_get]
    split
    · rfl
    · exact htag j
  · rw [ht] at hjk hj
    simp only [ChannelTable.freed, vput_get] at hjk hj
    by_cases e1 : j = i
    · simp [e1] at hj
    · by_cases e2 : k = i
      · rw [if_neg e1] at hj
        simp only [if_neg e1, if_pos e2] at hjk
        rw [hjk] at hj
        cases hj
      · rw [if_neg e1] at hj
        simp only [if_neg e1, if_neg e2] at hjk
        exact huniq j k hjk hj
  · rw [channel] at hd
    split at hd
    · cases hd
    · obtain ⟨hne, r, hr, hr'⟩ := href j d hd l hl
      refine ⟨hne, r, ?_, hr'⟩
      rw [channel, if_neg]
      · exact hr
      · intro e
        have := State.hasReferrer_iff.2 ⟨j, d, hd, l, hl, e⟩
        rw [referrer] at this
        cases this

/-- A state after RESTART has no channel. -/
theorem State.cleared_channel (s : State) (j : Slot) : s.cleared.channel j = none := by
  simp [State.cleared, State.channel, ChannelTable.restarted]

/-- A reset leaves no channel (R20). -/
theorem State.resetTo_channel (s : State) (r : RestartReason) (j : Slot) : (s.resetTo r).channel j = none := by
  simp [State.resetTo, State.channel, State.reset, ChannelTable.powerOn]

/-- Every move keeps the table's laws. -/
theorem TableLaws.move {s t : State} (h : TableLaws s) (hm : Move s t) : TableLaws t := by
  cases hm with
  | own | line | answer | wait | ends | initialised | attention | clock | frame | blink | hold | convert | pause
  | detach | bind | rewrite | unbind | unqueue | draw | glassWaits | glassEnds => exact h.congr (fun _ => rfl) rfl rfl
  | dirty => rw [State.markDirty_eq]; exact h.congr (fun _ => rfl) rfl rfl
  | pick => exact h.pick
  | stop => exact TableLaws.pick (h.congr (fun _ => rfl) rfl rfl)
  | resume => exact TableLaws.pick (h.congr (fun _ => rfl) rfl rfl)
  | complete _ hc => exact TableLaws.pick (h.write hc rfl rfl)
  | start hc => exact TableLaws.pick (h.write hc rfl rfl)
  | suspend _ hc => exact TableLaws.pick (h.write hc rfl rfl)
  | measure _ hc => exact TableLaws.pick (h.write hc rfl rfl)
  | expire hc => exact TableLaws.pick (h.write hc rfl rfl)
  | countdown hc => exact h.write hc rfl rfl
  | record hc _ defn => exact h.write hc rfl defn
  | withdraw hc =>
    refine TableLaws.pick ?_
    obtain ⟨ct, q, e, rfl | ⟨x, rfl⟩⟩ := s.withdrawn_frame _ _
    · rw [e]; exact h.congr (fun _ => rfl) rfl rfl
    · rw [e]; exact h.write hc rfl rfl
  | define _ free check => exact h.define free check
  | modify _ _ hc check => exact TableLaws.pick (h.modify hc check rfl)
  | retire _ hc href => exact TableLaws.pick (h.retire hc href rfl)
  | apply => exact h.congr (fun j => by unfold State.channel; rw [State.applySettings_ct]) (by rw [State.applySettings_ct]) (by rw [State.applySettings_ct])
  | clear => exact .empty s.cleared_channel rfl rfl
  | reset => exact .empty (s.resetTo_channel _) rfl rfl

/-- Settles O55: every step is a chain of moves, and the table's laws hold behind each. -/
theorem stepKeepsTableLaws : Obligations.StepKeepsTableLaws :=
  step_keeps fun _ _ => TableLaws.move

end Sys2Proof.Machine

/-! SUPPORT. O57: the records under every move. -/

namespace Sys2Proof.Machine

/-- The records' laws speak of the records and of the count in flight. -/
theorem RecordLaw.of {s t : State} (h : RecordLaw s) (count : ∀ v ∈ t.ce.conv, v.count ≤ maxCount)
    (channel : ∀ j c, t.channel j = some c → s.channel j = some c ∨ c.Law) : RecordLaw t :=
  ⟨count, fun j c hc => (channel j c hc).elim (fun hs => h.2 j c hs) id⟩

theorem RecordLaw.congr {s t : State} (h : RecordLaw s) (ce : t.ce = s.ce) (ct : t.ct = s.ct) : RecordLaw t :=
  h.of (by rw [ce]; exact h.1) fun j c hc => .inl (by unfold State.channel at hc; rwa [ct] at hc)

/-- A pick keeps the records' laws. -/
theorem RecordLaw.pick {s : State} (h : RecordLaw s) : RecordLaw s.pick := by
  refine ⟨fun v hv => ?_, fun j c hc => ?_⟩
  · obtain e | ⟨i, d, e⟩ := s.pick_ce
    · rw [e] at hv; exact h.1 v hv
    · rw [e] at hv; cases hv; exact Nat.zero_le _
  · obtain ⟨d, hd, e⟩ := State.pick_channel hc
    have law : d.unmarked.Law := h.2 j d hd
    rw [e] at law
    exact law

/-- A lawful record written, with the count in flight in its range, keeps the records' laws. -/
theorem RecordLaw.write {s t : State} {i : Slot} {d : Channel} (h : RecordLaw s)
    (count : ∀ v ∈ t.ce.conv, v.count ≤ maxCount) (ct : t.ct.slots = (s.tableWith i d).slots) (law : d.Law) :
    RecordLaw t := by
  refine h.of count fun j c hc => ?_
  have e : t.channel j = (s.putChannel i d).channel j := by unfold State.channel; rw [ct]; rfl
  rw [e, State.putChannel_channel] at hc
  split at hc
  · cases hc; exact .inr law
  · exact .inl hc

/-- The same where the record written is lawful when the one it replaces is. -/
theorem RecordLaw.rewrite {s t : State} {i : Slot} {c d : Channel} (h : RecordLaw s) (hc : s.channel i = some c)
    (count : ∀ v ∈ t.ce.conv, v.count ≤ maxCount) (ct : t.ct.slots = (s.tableWith i d).slots)
    (law : c.Law → d.Law) : RecordLaw t :=
  h.write count ct (law (h.2 i c hc))

/-- The count of a conversion in flight after an abandonment. -/
theorem RecordLaw.engineWithout {s : State} (h : RecordLaw s) (i : Slot) :
    ∀ v ∈ (s.engineWithout i).conv, v.count ≤ maxCount := by
  unfold State.engineWithout
  split
  · simp
  · exact h.1

/-- A curve meets no modification that changes the presence of a reference (R11, step 8). -/
theorem State.modifyCheck_curve {s : State} {i : Slot} {c : Channel} {q : DefReq} (h : s.modifyCheck i c q = none)
    (hk : c.curve.isSome = true) : q.ref.isSome = c.defn.reference.isSome := by
  unfold State.modifyCheck at h
  split at h; · cases h
  split at h; · cases h
  split at h; · cases h
  split at h; · cases h
  split at h; · cases h
  by_contra hne
  rw [if_pos ⟨hk, hne⟩] at h
  cases h

/-- A part without channels and conversion keeps the records' laws. -/
theorem RecordLaw.empty {s : State} (conv : s.ce.conv = none) (channel : ∀ j, s.channel j = none) : RecordLaw s := by
  refine ⟨fun v hv => ?_, fun j c hc => ?_⟩
  · rw [conv] at hv; cases hv
  · rw [channel] at hc; cases hc

/-- Every move keeps the records' laws. -/
theorem RecordLaw.move {s t : State} (h : RecordLaw s) (hm : Move s t) : RecordLaw t := by
  cases hm with
  | own | line | answer | wait | ends | initialised | attention | clock | frame | blink | hold | pause
  | detach | bind | rewrite | unbind | unqueue | draw | glassWaits | glassEnds => exact h.congr rfl rfl
  | dirty => rw [State.markDirty_eq]; exact h.congr rfl rfl
  | convert hv go => exact h.of (fun w hw => by cases hw; exact go.count (h.1 _ hv)) fun _ _ hc => .inl hc
  | pick => exact h.pick
  | stop => exact RecordLaw.pick (h.of (fun v hv => by cases hv) fun _ _ hc => .inl hc)
  | resume => exact RecordLaw.pick (h.congr rfl rfl)
  | complete hv hc _ law =>
    exact RecordLaw.pick (h.rewrite hc (fun v hv => by cases hv) rfl (law (h.1 _ hv)))
  | start hc => exact RecordLaw.pick (h.rewrite hc h.1 rfl id)
  | suspend _ hc => exact RecordLaw.pick (h.rewrite hc (h.engineWithout _) rfl id)
  | measure _ hc => exact RecordLaw.pick (h.rewrite hc h.1 rfl id)
  | expire hc => exact RecordLaw.pick (h.rewrite hc h.1 rfl id)
  | countdown hc => exact h.rewrite hc h.1 rfl id
  | record hc _ _ _ law => exact h.rewrite hc h.1 rfl law
  | withdraw hc =>
    refine RecordLaw.pick ?_
    obtain ⟨ct, q, e, rfl | ⟨x, rfl⟩⟩ := s.withdrawn_frame _ _
    · rw [e]; exact h.congr rfl rfl
    · rw [e]; exact h.rewrite hc h.1 rfl id
  | define hq => exact h.write h.1 rfl (newChannel_law hq)
  | modify _ hq hc check =>
    exact RecordLaw.pick (h.rewrite hc (h.engineWithout _) rfl fun law => law.modified hq (State.modifyCheck_curve check))
  | retire =>
    refine RecordLaw.pick (h.of (h.engineWithout _) fun j c hc => .inl ?_)
    rw [State.channel_freed (s := s) rfl] at hc
    split at hc
    · cases hc
    · exact hc
  | apply =>
    refine h.congr ?_ s.applySettings_ct
    cases hg : s.gs.pendingSettings with
    | none => rw [State.applySettings_none hg]
    | some g => rw [State.applySettings_some hg]
  | clear => exact .empty rfl s.cleared_channel
  | reset => exact .empty rfl (s.resetTo_channel _)

/-- Settles O57: every step is a chain of moves, and the records' laws hold behind each. -/
theorem stepKeepsRecordLaw : Obligations.StepKeepsRecordLaw :=
  step_keeps fun _ _ => RecordLaw.move

end Sys2Proof.Machine

/-! SUPPORT. O56: the due queue, the engine and the timers under every move. -/

namespace Sys2Proof.Machine

/-! ## What the schedule's laws look at -/

/-- What the schedule's laws look at in a record: all but the ref-tried mark, the result and the curve. -/
def Channel.plan (c : Channel) : LiveState × ChannelDef × Schedule := (c.state, c.defn, c.unmarked.sched)

theorem Channel.plan_eq {c d : Channel} (h : c.plan = d.plan) :
    c.state = d.state ∧ c.defn = d.defn ∧ c.sched.countdown = d.sched.countdown ∧ c.sched.oneShot = d.sched.oneShot ∧
      c.sched.notice = d.sched.notice ∧ c.sched.unwaited = d.sched.unwaited := by
  simp only [Channel.plan, Channel.unmarked, Prod.mk.injEq, Schedule.mk.injEq] at h
  obtain ⟨hs, hd, hc, ho, hn, hu, -⟩ := h
  exact ⟨hs, hd, hc, ho, hn, hu⟩

/-- Two states with the same plan in every slot. -/
def State.SamePlan (s t : State) : Prop := ∀ j, (t.channel j).map Channel.plan = (s.channel j).map Channel.plan

theorem State.SamePlan.back {s t : State} (h : s.SamePlan t) {j : Slot} {c : Channel} (hc : t.channel j = some c) :
    ∃ d, s.channel j = some d ∧ d.plan = c.plan := by
  have := h j
  rw [hc] at this
  exact Option.map_eq_some_iff.1 this.symm

theorem State.SamePlan.forth {s t : State} (h : s.SamePlan t) {j : Slot} {c : Channel} (hc : s.channel j = some c) :
    ∃ d, t.channel j = some d ∧ d.plan = c.plan := by
  have := h j
  rw [hc] at this
  exact Option.map_eq_some_iff.1 this

/-- The laws of one channel's timer and one-shot (3.1, R42, R43). -/
def Channel.Timed (c : Channel) : Prop :=
  1 ≤ c.defn.interval ∧
    (c.state ≠ .active → c.sched.countdown = none) ∧
    (c.state = .active → ∃ n ∈ c.sched.countdown, 1 ≤ n ∧ n ≤ c.defn.interval) ∧
    (c.sched.oneShot = false → c.sched.notice = false ∧ c.sched.unwaited = false)

theorem Channel.Timed.congr {c d : Channel} (h : c.Timed) (e : c.plan = d.plan) : d.Timed := by
  obtain ⟨hs, hd, hc, ho, hn, hu⟩ := Channel.plan_eq e
  unfold Channel.Timed at h ⊢
  rwa [hs, hd, hc, ho, hn, hu] at h

theorem TimerLaw.congr {s t : State} (h : TimerLaw s) (plan : s.SamePlan t) : TimerLaw t := by
  intro i c hc
  obtain ⟨d, hd, e⟩ := plan.back hc
  exact Channel.Timed.congr (h i d hd) e

/-- A channel that may stand in the due queue: ACTIVE, or with its one-shot pending (R46). -/
def Channel.Due (c : Channel) : Prop := c.state = .active ∨ c.sched.oneShot = true

theorem Channel.Due.congr {c d : Channel} (h : c.Due) (e : c.plan = d.plan) : d.Due := by
  obtain ⟨hs, -, -, ho, -⟩ := Channel.plan_eq e
  unfold Channel.Due at h ⊢
  rwa [hs, ho] at h

theorem QueueLaw.congr {s t : State} (h : QueueLaw s) (plan : s.SamePlan t) (queue : t.ms.queue = s.ms.queue)
    (converting : ∀ j, t.converting j = s.converting j) : QueueLaw t := by
  refine ⟨by rw [queue]; exact h.1, fun i hi => ?_⟩
  rw [queue] at hi
  obtain ⟨hn, c, hc, due⟩ := h.2 i hi
  obtain ⟨d, hd, e⟩ := plan.forth hc
  exact ⟨by rw [converting]; exact hn, d, hd, Channel.Due.congr due e.symm⟩

/-- A channel that gives a conversion its context, and is not SUSPENDED unless for its one-shot (R23, R24). -/
def Channel.Feeds (c : Channel) (e : Engine) (v : Conversion) : Prop :=
  e.mux = some c.defn.pin ∧ v.method = c.defn.method ∧ v.countLen = c.defn.countLen ∧ v.timeout = c.defn.timeout ∧
    (c.state = .suspended → c.sched.oneShot = true)

theorem Channel.Feeds.congr {c d : Channel} {e : Engine} {v : Conversion} (h : c.Feeds e v) (hp : c.plan = d.plan) :
    d.Feeds e v := by
  obtain ⟨hs, hd, -, ho, -⟩ := Channel.plan_eq hp
  unfold Channel.Feeds at h ⊢
  rwa [hs, hd, ho] at h

theorem EngineLaw.congr {s t : State} (h : EngineLaw s) (plan : s.SamePlan t) (ce : t.ce = s.ce)
    (fast : t.csu.fastClock = s.csu.fastClock) : EngineLaw t := by
  refine ⟨fun v hv => ?_, by rw [ce, fast]; exact h.2⟩
  rw [ce] at hv
  obtain ⟨hosc, hfast, hcount, c, hc, feeds⟩ := h.1 v hv
  obtain ⟨d, hd, e⟩ := plan.forth hc
  exact ⟨by rw [ce]; exact hosc, by rw [fast]; exact hfast, hcount, d, hd, by
    rw [ce]; exact Channel.Feeds.congr feeds e.symm⟩

theorem State.SamePlan.eligible {s t : State} (h : s.SamePlan t) (mode : t.ms.mode = s.ms.mode) (j : Slot) :
    t.eligible j = s.eligible j := by
  have e : (t.channel j).any (fun c => c.sched.oneShot) = (s.channel j).any fun c => c.sched.oneShot := by
    cases hc : t.channel j with
    | none => rw [Option.map_eq_none_iff.1 ((h j).symm.trans (by rw [hc]; rfl))]
    | some c =>
      obtain ⟨d, hd, e⟩ := h.back hc
      rw [hd]
      exact (Channel.plan_eq e).2.2.2.1.symm
  unfold State.eligible
  rw [mode, e]

/-- The schedule's laws but for the pick that may be left to make. -/
def ScheduleReady (s : State) : Prop := QueueLaw s ∧ EngineLaw s ∧ TimerLaw s

theorem ScheduleReady.congr {s t : State} (h : ScheduleReady s) (plan : s.SamePlan t) (queue : t.ms.queue = s.ms.queue)
    (ce : t.ce = s.ce) (fast : t.csu.fastClock = s.csu.fastClock) : ScheduleReady t :=
  ⟨h.1.congr plan queue fun j => by unfold State.converting; rw [ce], h.2.1.congr plan ce fast, h.2.2.congr plan⟩

theorem ScheduleLaws.congr {s t : State} (h : ScheduleLaws s) (plan : s.SamePlan t) (ms : t.ms = s.ms)
    (ce : t.ce = s.ce) (fast : t.csu.fastClock = s.csu.fastClock) : ScheduleLaws t := by
  obtain ⟨hq, he, ht, hp⟩ := h
  obtain ⟨hq', he', ht'⟩ := ScheduleReady.congr ⟨hq, he, ht⟩ plan (by rw [ms]) ce fast
  refine ⟨hq', he', ht', fun hc i hi => ?_⟩
  rw [plan.eligible (by rw [ms])]
  exact hp (by rw [← ce]; exact hc) i (by rw [← ms]; exact hi)

/-! ## One slot changed -/

/-- A state that differs from another, as the schedule goes, in one slot alone, or in an engine that has stopped. -/
structure State.Touches (s t : State) (i : Slot) : Prop where
  channel : ∀ j, j ≠ i → t.channel j = s.channel j
  queue : ∀ j, j ≠ i → j ∈ t.ms.queue → j ∈ s.ms.queue
  nodup : s.ms.queue.Nodup → t.ms.queue.Nodup
  engine : (t.ce = s.ce ∧ t.csu.fastClock = s.csu.fastClock) ∨ (t.ce = Engine.idle ∧ t.csu.fastClock = false)

theorem State.Touches.converting {s t : State} {i : Slot} (h : s.Touches t i) {j : Slot} (hj : t.converting j = true) :
    s.converting j = true := by
  obtain ⟨e, -⟩ | ⟨e, -⟩ := h.engine
  · unfold State.converting at hj ⊢
    rwa [e] at hj
  · simp [State.converting, e, Engine.idle] at hj

theorem QueueLaw.touched {s t : State} {i : Slot} (h : QueueLaw s) (touch : s.Touches t i)
    (own : i ∈ t.ms.queue → t.converting i = false ∧ ∃ c, t.channel i = some c ∧ c.Due) : QueueLaw t := by
  refine ⟨touch.nodup h.1, fun j hj => ?_⟩
  by_cases e : j = i
  · subst e; exact own hj
  · obtain ⟨hn, c, hc, due⟩ := h.2 j (touch.queue j e hj)
    refine ⟨Bool.eq_false_iff.2 fun hv => ?_, c, by rw [touch.channel j e]; exact hc, due⟩
    rw [touch.converting hv] at hn
    cases hn

theorem TimerLaw.touched {s t : State} {i : Slot} (h : TimerLaw s) (touch : s.Touches t i)
    (own : ∀ c, t.channel i = some c → c.Timed) : TimerLaw t := by
  intro j c hc
  by_cases e : j = i
  · subst e; exact own c hc
  · rw [touch.channel j e] at hc
    exact h j c hc

theorem EngineLaw.touched {s t : State} {i : Slot} (h : EngineLaw s) (touch : s.Touches t i)
    (own : t.converting i = true → ∀ c, s.channel i = some c →
      ∃ d, t.channel i = some d ∧ ∀ v, c.Feeds s.ce v → d.Feeds s.ce v) : EngineLaw t := by
  obtain ⟨ece, efast⟩ | ⟨ece, efast⟩ := touch.engine
  · refine ⟨fun v hv => ?_, by rw [ece, efast]; exact h.2⟩
    have hv' : v ∈ s.ce.conv := by rwa [ece] at hv
    obtain ⟨hosc, hfast, hcount, c, hc, feeds⟩ := h.1 v hv'
    refine ⟨by rw [ece]; exact hosc, by rw [efast]; exact hfast, hcount, ?_⟩
    rw [ece]
    by_cases e : v.channel = i
    · have converting : t.converting i = true := by
        unfold State.converting
        rw [Option.mem_def.1 hv]
        simpa using e
      obtain ⟨d, hd, hf⟩ := own converting c (e ▸ hc)
      exact ⟨d, e ▸ hd, hf v feeds⟩
    · exact ⟨c, by rw [touch.channel _ e]; exact hc, feeds⟩
  · refine ⟨fun v hv => ?_, fun _ => ⟨by rw [ece]; rfl, by rw [ece]; rfl, efast⟩⟩
    rw [ece] at hv
    cases hv

/-! ## The pick -/

theorem State.samePlan_unmarked {s t : State}
    (h : ∀ j, (t.channel j).map Channel.unmarked = (s.channel j).map Channel.unmarked) : s.SamePlan t := fun j => by
  have := congrArg (Option.map Channel.plan) (h j)
  rwa [Option.map_map, Option.map_map] at this

theorem State.SamePlan.pick (s : State) : s.SamePlan s.pick := State.samePlan_unmarked s.pick_unmarked

theorem State.SamePlan.start {s : State} {i : Slot} {c d : Channel} (hc : s.channel i = some c)
    (hd : d.unmarked = c.unmarked) : s.SamePlan (s.startChannel i d) :=
  State.samePlan_unmarked fun j => s.startChannel_unmarked (by rw [hc, hd]; rfl) j

/-- A start keeps the due queue's law. -/
theorem QueueLaw.start {s : State} {i : Slot} {c d : Channel} (h : QueueLaw s) (hc : s.channel i = some c)
    (hd : d.unmarked = c.unmarked) : QueueLaw (s.startChannel i d) := by
  have hqueue : (s.startChannel i d).ms.queue = s.ms.queue.erase i := by rw [State.startChannel_eq]; rfl
  refine ⟨by rw [hqueue]; exact h.1.erase i, fun j hj => ?_⟩
  rw [hqueue] at hj
  obtain ⟨-, e, he, due⟩ := h.2 j (List.mem_of_mem_erase hj)
  obtain ⟨e', he', hp⟩ := (State.SamePlan.start hc hd).forth he
  refine ⟨?_, e', he', Channel.Due.congr due hp.symm⟩
  have hne : i ≠ j := fun e => h.1.not_mem_erase (e ▸ hj)
  rw [State.startChannel_eq]
  simp [State.converting, startedEngine, hne]

/-- A start makes the laws of the schedule hold when it is of a live channel not SUSPENDED unless for its one-shot. -/
theorem ScheduleReady.start {s : State} {i : Slot} {c d : Channel} (h : ScheduleReady s) (hc : s.channel i = some c)
    (hd : d.unmarked = c.unmarked) (free : c.state = .suspended → c.sched.oneShot = true) :
    ScheduleLaws (s.startChannel i d) := by
  have hdefn : d.unmarked.defn = c.unmarked.defn := congrArg Channel.defn hd
  change d.defn = c.defn at hdefn
  have plan := State.SamePlan.start hc hd
  have hce : (s.startChannel i d).ce = startedEngine i c.defn := by rw [State.startChannel_eq, hdefn]
  have hfast : (s.startChannel i d).csu.fastClock = decide (c.defn.method = .period) := by
    rw [State.startChannel_eq, hdefn]
  obtain ⟨c', hc', hplan⟩ := plan.forth hc
  refine ⟨h.1.start hc hd, ⟨fun v hv => ?_, fun hn => ?_⟩, h.2.2.congr plan, fun hn => ?_⟩
  · rw [hce] at hv
    cases hv
    refine ⟨by rw [hce]; rfl, hfast, Nat.zero_le _, c', hc', ?_⟩
    rw [hce]
    exact Channel.Feeds.congr (c := c) ⟨rfl, rfl, rfl, rfl, free⟩ hplan.symm
  · rw [hce] at hn; cases hn
  · rw [hce] at hn; cases hn

/-- The state in which a chained reference is started: the channel's ref-tried mark set, its entry at the head (R51). -/
def State.headed (s : State) (i : Slot) (c : Channel) : State :=
  { s with
    ct := s.tableWith i { c with sched := { c.sched with refTried := true } }
    ms := s.queueOf (i :: s.ms.queue.erase i) }

theorem State.chain_eq {s : State} {i rf : Slot} {c r : Channel} (hc : s.channel i = some c) :
    s.chain i rf r = (s.headed i c).startChannel rf r := by
  unfold State.chain
  rw [State.onSched_eq _ hc]
  rfl

theorem State.SamePlan.headed {s : State} {i : Slot} {c : Channel} (hc : s.channel i = some c) :
    s.SamePlan (s.headed i c) :=
  State.channel_map_tableWith Channel.plan (s := s) rfl hc rfl

theorem QueueLaw.headed {s : State} {i : Slot} {c : Channel} (h : QueueLaw s) (hc : s.channel i = some c)
    (hi : i ∈ s.ms.queue) : QueueLaw (s.headed i c) := by
  refine ⟨List.nodup_cons.2 ⟨h.1.not_mem_erase, h.1.erase i⟩, fun j hj => ?_⟩
  have hj' : j ∈ s.ms.queue := by
    rcases List.mem_cons.1 hj with e | hj
    · rw [e]; exact hi
    · exact List.mem_of_mem_erase hj
  obtain ⟨hn, d, hd, due⟩ := h.2 j hj'
  obtain ⟨d', hd', hp⟩ := (State.SamePlan.headed hc).forth hd
  exact ⟨hn, d', hd', Channel.Due.congr due hp.symm⟩

/-- The reference to start, read behind the channel's ref-tried mark: it may be the channel itself. -/
theorem State.headed_channel {s : State} {i rf : Slot} {c r : Channel} (hc : s.channel i = some c)
    (hr : s.channel rf = some r) : ∃ d, (s.headed i c).channel rf = some d ∧ r.unmarked = d.unmarked ∧ d.state = r.state := by
  rw [State.channel_tableWith (s := s) rfl rf]
  by_cases e : rf = i
  · rw [e, hc] at hr
    cases hr
    exact ⟨_, if_pos e, rfl, rfl⟩
  · exact ⟨r, by rw [if_neg e]; exact hr, rfl, rfl⟩

/-- A pick keeps the due queue's law. -/
theorem QueueLaw.pick {s : State} (h : QueueLaw s) : QueueLaw s.pick := by
  obtain ⟨e, -⟩ | ⟨i, c, -, hc, e⟩ | ⟨i, c, l, r, hp, hc, -, hr, -, e⟩ := s.pick_cases
  · rw [e]; exact h
  · rw [e]; exact h.start hc rfl
  · rw [e, State.chain_eq hc]
    obtain ⟨d, hd, same, -⟩ := State.headed_channel hc hr
    exact (h.headed hc (State.picked_spec hp).2).start hd same

/-- A pick makes the laws of the schedule hold (R48). -/
theorem ScheduleReady.pick {s : State} (h : ScheduleReady s) : ScheduleLaws s.pick := by
  have live {j : Slot} (hj : j ∈ s.ms.queue) : ∃ c, s.channel j = some c ∧ c.Due := (h.1.2 j hj).2
  obtain ⟨e, hnone⟩ | ⟨i, c, hp, hc, e⟩ | ⟨i, c, l, r, hp, hc, -, hr, hstate, e⟩ := s.pick_cases
  · rw [e]
    obtain ⟨hq, he, ht⟩ := h
    refine ⟨hq, he, ht, fun hconv j hj => Bool.eq_false_iff.2 fun hel => ?_⟩
    cases hp : s.picked with
    | none =>
      unfold State.picked at hp
      rw [hconv] at hp
      exact List.find?_eq_none.1 hp j hj hel
    | some i =>
      obtain ⟨c, hc, -⟩ := live (State.picked_spec hp).2
      rw [hnone i hp] at hc
      cases hc
  · rw [e]
    obtain ⟨c', hc', due⟩ := live (State.picked_spec hp).2
    rw [hc] at hc'
    cases hc'
    exact h.start hc rfl fun hs => due.resolve_left (by rw [hs]; decide)
  · rw [e, State.chain_eq hc]
    have plan := State.SamePlan.headed hc
    have ready : ScheduleReady (s.headed i c) :=
      ⟨h.1.headed hc (State.picked_spec hp).2, h.2.1.congr plan rfl rfl, h.2.2.congr plan⟩
    obtain ⟨d, hd, same, state⟩ := State.headed_channel hc hr
    exact ready.start hd same fun hs => absurd (state.symm.trans hs) hstate

theorem ScheduleLaws.ready {s : State} (h : ScheduleLaws s) : ScheduleReady s := ⟨h.1, h.2.1, h.2.2.1⟩

/-! ## The moves that change one slot -/

/-- A record written, with a due queue that gains no other channel. -/
theorem State.Touches.write {s t : State} {i : Slot} {d : Channel} (ct : t.ct.slots = (s.tableWith i d).slots)
    (queue : ∀ j, j ≠ i → j ∈ t.ms.queue → j ∈ s.ms.queue) (nodup : s.ms.queue.Nodup → t.ms.queue.Nodup)
    (engine : (t.ce = s.ce ∧ t.csu.fastClock = s.csu.fastClock) ∨ (t.ce = Engine.idle ∧ t.csu.fastClock = false)) :
    s.Touches t i ∧ t.channel i = some d := by
  have channel (j : Slot) : t.channel j = if j = i then some d else s.channel j := by
    have e : t.channel j = (s.putChannel i d).channel j := by unfold State.channel; rw [ct]; rfl
    rw [e, State.putChannel_channel]
  exact ⟨⟨fun j hj => by rw [channel, if_neg hj], queue, nodup, engine⟩, by rw [channel, if_pos rfl]⟩

/-- The queue after a channel's entry is withdrawn. -/
theorem erase_queue {q : List Slot} {i : Slot} : ∀ j, j ≠ i → j ∈ q.erase i → j ∈ q :=
  fun _ _ hj => List.mem_of_mem_erase hj

/-- The engine after a request that abandons the conversion of a channel. -/
theorem State.engineWithout_cases (s : State) (i : Slot) :
    ((s.engineWithout i = s.ce ∧ (s.clocksWithout i).fastClock = s.csu.fastClock) ∨
      (s.engineWithout i = Engine.idle ∧ (s.clocksWithout i).fastClock = false)) ∧
      (s.engineWithout i).conv.any (fun v => v.channel = i) = false := by
  unfold State.engineWithout State.clocksWithout
  cases h : s.converting i with
  | true => exact ⟨.inr ⟨rfl, rfl⟩, rfl⟩
  | false => exact ⟨.inl ⟨rfl, rfl⟩, h⟩

/-- A channel withdrawn from queue and engine, whatever its record is then. -/
structure State.Without (s t : State) (i : Slot) : Prop where
  channel : ∀ j, j ≠ i → t.channel j = s.channel j
  queue : t.ms.queue = s.ms.queue.erase i
  ce : t.ce = s.engineWithout i
  csu : t.csu = s.clocksWithout i

theorem State.Without.touches {s t : State} {i : Slot} (h : s.Without t i) : s.Touches t i :=
  ⟨h.channel, by rw [h.queue]; exact erase_queue, fun hn => by rw [h.queue]; exact hn.erase i, by
    rw [h.ce, h.csu]; exact (s.engineWithout_cases i).1⟩

theorem QueueLaw.without {s t : State} {i : Slot} (h : QueueLaw s) (w : s.Without t i) : QueueLaw t :=
  h.touched w.touches fun hi => by
    rw [w.queue] at hi
    exact absurd hi h.1.not_mem_erase

theorem ScheduleReady.without {s t : State} {i : Slot} (h : ScheduleReady s) (w : s.Without t i)
    (timed : ∀ c, t.channel i = some c → c.Timed) : ScheduleReady t := by
  refine ⟨h.1.without w, h.2.1.touched w.touches fun hv => ?_, h.2.2.touched w.touches timed⟩
  unfold State.converting at hv
  rw [w.ce, (s.engineWithout_cases i).2] at hv
  cases hv

/-- A record without one-shot and countdown, as a modified, suspended or new channel has it. -/
theorem Channel.timed_clear {c : Channel} (hs : c.state ≠ .active) (hc : c.sched = Schedule.clear)
    (hi : 1 ≤ c.defn.interval) : c.Timed := by
  refine ⟨hi, fun _ => by rw [hc]; rfl, fun ha => absurd ha hs, fun _ => by rw [hc]; exact ⟨rfl, rfl⟩⟩

/-- A channel joins the due queue with an ACTIVE record (R44, R54). -/
structure State.Joins (s t : State) (i : Slot) (d : Channel) : Prop where
  ct : t.ct.slots = (s.tableWith i d).slots
  queue : t.ms.queue = if s.queued i = true ∨ s.converting i = true then s.ms.queue else s.ms.queue ++ [i]
  ce : t.ce = s.ce
  fast : t.csu.fastClock = s.csu.fastClock
  active : d.state = .active

theorem State.Joins.touches {s t : State} {i : Slot} {d : Channel} (h : s.Joins t i d) :
    s.Touches t i ∧ t.channel i = some d := by
  refine State.Touches.write h.ct (fun j hj hq => ?_) (fun hn => ?_) (.inl ⟨h.ce, h.fast⟩)
  · rw [h.queue] at hq
    split at hq
    · exact hq
    · simpa [hj] using hq
  · rw [h.queue]
    split
    · exact hn
    · next hj =>
      have : i ∉ s.ms.queue := fun hi => hj (.inl (by simpa [State.queued] using hi))
      exact List.nodup_append.2 ⟨hn, by simp, fun a ha b hb => by
        cases List.mem_singleton.1 hb; exact fun e => this (e ▸ ha)⟩

theorem State.converting_congr {s t : State} (h : t.ce = s.ce) (j : Slot) : t.converting j = s.converting j := by
  unfold State.converting
  rw [h]

theorem QueueLaw.join {s t : State} {i : Slot} {d : Channel} (h : QueueLaw s) (join : s.Joins t i d) : QueueLaw t := by
  obtain ⟨touch, hd⟩ := join.touches
  refine h.touched touch fun hi => ⟨?_, d, hd, .inl join.active⟩
  rw [State.converting_congr join.ce]
  by_cases hq : i ∈ s.ms.queue
  · exact (h.2 i hq).1
  · rw [join.queue] at hi
    split at hi
    · exact absurd hi hq
    · next hj => exact Bool.eq_false_iff.2 fun hv => hj (.inr hv)

/-- A record with the same definition feeds a conversion as before, if it is not SUSPENDED without a one-shot. -/
theorem Channel.Feeds.of_defn {c d : Channel} {e : Engine} {v : Conversion} (h : c.Feeds e v) (defn : d.defn = c.defn)
    (free : (c.state = .suspended → c.sched.oneShot = true) → d.state = .suspended → d.sched.oneShot = true) :
    d.Feeds e v := by
  obtain ⟨h1, h2, h3, h4, h5⟩ := h
  exact ⟨by rw [defn]; exact h1, by rw [defn]; exact h2, by rw [defn]; exact h3, by rw [defn]; exact h4, free h5⟩

theorem ScheduleReady.join {s t : State} {i : Slot} {c d : Channel} (h : ScheduleReady s) (hc : s.channel i = some c)
    (join : s.Joins t i d) (defn : d.defn = c.defn) (timed : c.Timed → d.Timed) : ScheduleReady t := by
  obtain ⟨touch, hd⟩ := join.touches
  refine ⟨h.1.join join, h.2.1.touched touch fun _ e he => ?_, h.2.2.touched touch fun e he => ?_⟩
  · rw [hc] at he
    cases he
    exact ⟨d, hd, fun v feeds => feeds.of_defn defn fun _ hs => by rw [join.active] at hs; cases hs⟩
  · rw [hd] at he
    cases he
    exact timed (h.2.2 i c hc)

/-- A record is written that leaves queue and engine and is not less due than before. -/
structure State.Rewrites (s t : State) (i : Slot) (c d : Channel) : Prop where
  ct : t.ct.slots = (s.tableWith i d).slots
  queue : t.ms.queue = s.ms.queue
  ce : t.ce = s.ce
  fast : t.csu.fastClock = s.csu.fastClock
  state : d.state = c.state
  oneShot : c.sched.oneShot = true → d.sched.oneShot = true

theorem State.Rewrites.touches {s t : State} {i : Slot} {c d : Channel} (h : s.Rewrites t i c d) :
    s.Touches t i ∧ t.channel i = some d :=
  State.Touches.write h.ct (fun _ _ hq => by rwa [h.queue] at hq) (by rw [h.queue]; exact id) (.inl ⟨h.ce, h.fast⟩)

theorem QueueLaw.rewrite {s t : State} {i : Slot} {c d : Channel} (h : QueueLaw s) (hc : s.channel i = some c)
    (write : s.Rewrites t i c d) : QueueLaw t := by
  obtain ⟨touch, hd⟩ := write.touches
  refine h.touched touch fun hi => ?_
  rw [write.queue] at hi
  obtain ⟨hn, e, he, due⟩ := h.2 i hi
  rw [hc] at he
  cases he
  exact ⟨by rw [State.converting_congr write.ce]; exact hn, d, hd, due.imp (fun hs => write.state.trans hs) write.oneShot⟩

theorem ScheduleReady.rewrite {s t : State} {i : Slot} {c d : Channel} (h : ScheduleReady s) (hc : s.channel i = some c)
    (write : s.Rewrites t i c d) (defn : d.defn = c.defn) (timed : c.Timed → d.Timed) : ScheduleReady t := by
  obtain ⟨touch, hd⟩ := write.touches
  refine ⟨h.1.rewrite hc write, h.2.1.touched touch fun _ e he => ?_, h.2.2.touched touch fun e he => ?_⟩
  · rw [hc] at he
    cases he
    exact ⟨d, hd, fun v feeds => feeds.of_defn defn fun h5 hs => write.oneShot (h5 (write.state.symm.trans hs))⟩
  · rw [hd] at he
    cases he
    exact timed (h.2.2 i c hc)

/-- The moves of one channel's one-shot and completion. -/
theorem State.finished_touches (s : State) (i : Slot) (c : Channel) (r : Result) : s.Touches (s.finished i c r) i :=
  (State.Touches.write (s := s) (t := s.finished i c r) rfl (fun _ _ hq => hq) id (.inr ⟨rfl, rfl⟩)).1

theorem QueueLaw.finished {s : State} {v : Conversion} (h : QueueLaw s) (c : Channel) (r : Result)
    (hv : s.ce.conv = some v) : QueueLaw (s.finished v.channel c r) := by
  refine h.touched (s.finished_touches _ c r) fun hi => ?_
  have converting : s.converting v.channel = true := by simp [State.converting, hv]
  rw [(h.2 _ hi).1] at converting
  cases converting

theorem ScheduleReady.finished {s : State} {v : Conversion} {c : Channel} (h : ScheduleReady s) (r : Result)
    (hv : s.ce.conv = some v) (hc : s.channel v.channel = some c) : ScheduleReady (s.finished v.channel c r) := by
  have touch := s.finished_touches v.channel c r
  refine ⟨h.1.finished c r hv, h.2.1.touched touch fun hn => (by cases hn), h.2.2.touched touch fun d he => ?_⟩
  rw [State.channel_tableWith_self (s := s) rfl] at he
  cases he
  obtain ⟨h1, h2, h3, -⟩ := h.2.2 _ c hc
  exact ⟨h1, h2, h3, fun _ => ⟨rfl, rfl⟩⟩

/-- A one-shot asked for of a channel that is converting changes its record alone. -/
theorem State.measured_rewrites {s : State} {i : Slot} (c : Channel) (wait : Bool) (hv : s.converting i = true) :
    s.Rewrites (s.measured i c wait) i c { c with sched := c.sched.asked wait } :=
  ⟨rfl, if_pos hv, rfl, rfl, rfl, fun _ => rfl⟩

/-- A one-shot asked for of another channel puts it at the head of the due queue. -/
theorem State.measured_touches {s : State} {i : Slot} (c : Channel) (wait : Bool) (hv : ¬s.converting i = true) :
    s.Touches (s.measured i c wait) i := by
  have queue : (s.measured i c wait).ms.queue = i :: s.ms.queue.erase i := if_neg hv
  refine (State.Touches.write (s := s) (t := s.measured i c wait) rfl (fun j hj hq => ?_) (fun hn => ?_)
    (.inl ⟨rfl, rfl⟩)).1
  · rw [queue] at hq
    exact List.mem_of_mem_erase ((List.mem_cons.1 hq).resolve_left hj)
  · rw [queue]
    exact List.nodup_cons.2 ⟨hn.not_mem_erase, hn.erase i⟩

theorem State.measured_channel (s : State) (i : Slot) (c : Channel) (wait : Bool) :
    (s.measured i c wait).channel i = some { c with sched := c.sched.asked wait } :=
  State.channel_tableWith_self (s := s) rfl

theorem QueueLaw.measured {s : State} {i : Slot} {c : Channel} (h : QueueLaw s) (hc : s.channel i = some c)
    (wait : Bool) : QueueLaw (s.measured i c wait) := by
  by_cases hv : s.converting i = true
  · exact h.rewrite hc (State.measured_rewrites c wait hv)
  · exact h.touched (State.measured_touches c wait hv) fun _ =>
      ⟨Bool.eq_false_iff.2 hv, _, s.measured_channel i c wait, .inr rfl⟩

theorem ScheduleReady.measured {s : State} {i : Slot} {c : Channel} (h : ScheduleReady s) (hc : s.channel i = some c)
    (wait : Bool) : ScheduleReady (s.measured i c wait) := by
  have timed (ht : c.Timed) : Channel.Timed { c with sched := c.sched.asked wait } := by
    obtain ⟨h1, h2, h3, -⟩ := ht
    exact ⟨h1, h2, h3, fun hn => by cases hn⟩
  by_cases hv : s.converting i = true
  · exact h.rewrite hc (State.measured_rewrites c wait hv) rfl timed
  · have touch := State.measured_touches c wait hv
    refine ⟨h.1.measured hc wait, h.2.1.touched touch fun hn => absurd hn hv, h.2.2.touched touch fun d he => ?_⟩
    rw [s.measured_channel] at he
    cases he
    exact timed (h.2.2 i c hc)

/-- What a cancelled one-shot leaves: nothing changed, a notice cleared under a conversion, a one-shot cleared of a
channel not converting and ACTIVE, or of one that loses its entry too (R59). -/
theorem State.withdrawn_cases (s : State) (i : Slot) (c : Channel) :
    s.withdrawn i c = s ∨
      (c.sched.unwaited = false ∧ s.Rewrites (s.withdrawn i c) i c { c with sched := { c.sched with notice := false } }) ∨
      ∃ d, d.defn = c.defn ∧ s.converting i = false ∧ s.Touches (s.withdrawn i c) i ∧
        (s.withdrawn i c).channel i = some d ∧ (c.Timed → d.Timed) ∧ (i ∈ (s.withdrawn i c).ms.queue → s.ms.queue.Nodup →
          d.state = .active) ∧ (s.withdrawn i c).ce = s.ce := by
  unfold State.withdrawn
  split
  · exact .inl rfl
  · next hu =>
    have hu : c.sched.unwaited = false := Bool.eq_false_iff.2 hu
    split
    · exact .inr (.inl ⟨hu, rfl, rfl, rfl, rfl, rfl, id⟩)
    · next hv =>
      have hv : s.converting i = false := Bool.eq_false_iff.2 hv
      split
      · next hs =>
        refine .inr (.inr ⟨{ c with sched := { c.sched with oneShot := false, notice := false } }, rfl, hv, ?_, ?_,
          fun ht => ?_, fun _ _ => hs, rfl⟩)
        · exact And.left (State.Touches.write rfl (fun _ _ hq => hq) id (.inl ⟨rfl, rfl⟩))
        · exact State.channel_tableWith_self (s := s) rfl
        · obtain ⟨h1, h2, h3, -⟩ := ht
          exact ⟨h1, h2, h3, fun _ => ⟨rfl, hu⟩⟩
      · next hs =>
        refine .inr (.inr ⟨{ c with sched := { c.sched with oneShot := false, notice := false, refTried := false } },
          rfl, hv, ?_, ?_, fun ht => ?_, fun hi hn => absurd hi hn.not_mem_erase, rfl⟩)
        · exact And.left (State.Touches.write rfl erase_queue (fun hn => hn.erase i) (.inl ⟨rfl, rfl⟩))
        · exact State.channel_tableWith_self (s := s) rfl
        · obtain ⟨h1, h2, h3, -⟩ := ht
          exact ⟨h1, h2, h3, fun _ => ⟨rfl, hu⟩⟩

theorem QueueLaw.withdrawn {s : State} {i : Slot} {c : Channel} (h : QueueLaw s) (hc : s.channel i = some c) :
    QueueLaw (s.withdrawn i c) := by
  obtain e | ⟨-, write⟩ | ⟨d, -, hv, touch, hd, -, active, hce⟩ := s.withdrawn_cases i c
  · rw [e]; exact h
  · exact h.rewrite hc write
  · exact h.touched touch fun hi => ⟨by rw [State.converting_congr hce]; exact hv, d, hd, .inl (active hi h.1)⟩

theorem ScheduleReady.withdrawn {s : State} {i : Slot} {c : Channel} (h : ScheduleReady s) (hc : s.channel i = some c) :
    ScheduleReady (s.withdrawn i c) := by
  obtain e | ⟨hu, write⟩ | ⟨d, defn, hv, touch, hd, timed, -, hce⟩ := s.withdrawn_cases i c
  · rw [e]; exact h
  · refine h.rewrite hc write rfl fun ht => ?_
    obtain ⟨h1, h2, h3, -⟩ := ht
    exact ⟨h1, h2, h3, fun _ => ⟨rfl, hu⟩⟩
  · refine ⟨h.1.withdrawn hc, h.2.1.touched touch fun hn => ?_, h.2.2.touched touch fun e he => ?_⟩
    · rw [State.converting_congr hce, hv] at hn
      cases hn
    · rw [hd] at he
      cases he
      exact timed (h.2.2 i c hc)

/-- A channel entered in a FREE slot is not queued. -/
theorem QueueLaw.not_queued {s : State} {i : Slot} (h : QueueLaw s) (free : s.channel i = none) : i ∉ s.ms.queue :=
  fun hi => by
    obtain ⟨-, c, hc, -⟩ := h.2 i hi
    rw [free] at hc
    cases hc

theorem State.enterChannel_touches (s : State) (i : Slot) (q : DefReq) :
    s.Touches (s.enterChannel i q) i ∧ (s.enterChannel i q).channel i = some (newChannel q) :=
  State.Touches.write (s := s) (t := s.enterChannel i q) (d := newChannel q) rfl (fun _ _ hq => hq) id (.inl ⟨rfl, rfl⟩)

/-- The withdrawals of a modified, a suspended and a retired channel. -/
theorem State.Without.write {s t : State} {i : Slot} {d : Channel} (ct : t.ct.slots = (s.tableWith i d).slots)
    (queue : t.ms.queue = s.ms.queue.erase i) (ce : t.ce = s.engineWithout i) (csu : t.csu = s.clocksWithout i) :
    s.Without t i ∧ t.channel i = some d := by
  have channel (j : Slot) : t.channel j = if j = i then some d else s.channel j := by
    have e : t.channel j = (s.putChannel i d).channel j := by unfold State.channel; rw [ct]; rfl
    rw [e, State.putChannel_channel]
  exact ⟨⟨fun j hj => by rw [channel, if_neg hj], queue, ce, csu⟩, by rw [channel, if_pos rfl]⟩

theorem State.Without.freed {s t : State} {i : Slot} {p : Pin} (ct : t.ct = s.ct.freed i p)
    (queue : t.ms.queue = s.ms.queue.erase i) (ce : t.ce = s.engineWithout i) (csu : t.csu = s.clocksWithout i) :
    s.Without t i ∧ t.channel i = none :=
  ⟨⟨fun j hj => by rw [State.channel_freed ct, if_neg hj], queue, ce, csu⟩, by
    rw [State.channel_freed ct, if_pos rfl]⟩

theorem QueueLaw.empty {s : State} (queue : s.ms.queue = []) : QueueLaw s :=
  ⟨by rw [queue]; exact List.nodup_nil, by rw [queue]; simp⟩

/-- Every move keeps the due queue's law. -/
theorem QueueLaw.move {s t : State} (h : QueueLaw s) (hm : Move s t) : QueueLaw t := by
  cases hm with
  | own | line | answer | wait | ends | initialised | attention | frame | blink | hold | clock | pause
  | detach | bind | rewrite | unbind | unqueue | draw | glassWaits | glassEnds =>
    exact h.congr (fun _ => rfl) rfl fun _ => rfl
  | dirty => rw [State.markDirty_eq]; exact h.congr (fun _ => rfl) rfl fun _ => rfl
  | convert hv go =>
    exact h.congr (fun _ => rfl) rfl fun j => by simp [State.converting, hv, go.channel]
  | complete hv => exact QueueLaw.pick (h.finished _ _ hv)
  | stop =>
    refine QueueLaw.pick ⟨h.1, fun j hj => ?_⟩
    exact ⟨rfl, (h.2 j hj).2⟩
  | pick => exact h.pick
  | define _ free =>
    exact h.touched (s.enterChannel_touches _ _).1 fun hi => absurd hi (h.not_queued free)
  | modify => exact QueueLaw.pick (h.without (State.Without.write rfl rfl rfl rfl).1)
  | retire => exact QueueLaw.pick (h.without (State.Without.freed rfl rfl rfl rfl).1)
  | suspend => exact QueueLaw.pick (h.without (State.Without.write rfl rfl rfl rfl).1)
  | start => exact QueueLaw.pick (h.join ⟨rfl, rfl, rfl, rfl, rfl⟩)
  | measure wait hc => exact (h.measured hc wait).pick
  | withdraw hc => exact (h.withdrawn hc).pick
  | resume => exact QueueLaw.pick (h.congr (fun _ => rfl) rfl fun _ => rfl)
  | countdown hc => exact h.rewrite hc ⟨rfl, rfl, rfl, rfl, rfl, id⟩
  | expire hc active => exact QueueLaw.pick (h.join ⟨rfl, rfl, rfl, rfl, active⟩)
  | record hc state _ sched => exact h.rewrite hc ⟨rfl, rfl, rfl, rfl, state, by rw [sched]; exact id⟩
  | apply =>
    cases hg : s.gs.pendingSettings with
    | none => rw [State.applySettings_none hg]; exact h
    | some g => rw [State.applySettings_some hg]; exact h.congr (fun _ => rfl) rfl fun _ => rfl
  | clear => exact .empty rfl
  | reset => exact .empty rfl

/-- A part without channels, entries and conversion keeps the schedule's laws. -/
theorem ScheduleLaws.empty {s : State} (channel : ∀ j, s.channel j = none) (queue : s.ms.queue = [])
    (ce : s.ce = Engine.idle) (fast : s.csu.fastClock = false) : ScheduleLaws s := by
  refine ⟨.empty queue, ⟨?_, fun _ => ?_⟩, fun i c hc => ?_, ?_⟩
  · rw [ce]; intro v hv; cases hv
  · exact ⟨by rw [ce]; rfl, by rw [ce]; rfl, fast⟩
  · rw [channel] at hc; cases hc
  · simp [PickLaw, queue]

/-- A pause makes no entry eligible (R48, R61). -/
theorem ScheduleLaws.pause {s : State} (h : ScheduleLaws s) :
    ScheduleLaws { s with ms := { s.ms with mode := .paused } } := by
  obtain ⟨hq, he, ht, hp⟩ := h
  refine ⟨hq, he, ht, fun hc i hi => ?_⟩
  have := hp hc i hi
  unfold State.eligible at this ⊢
  cases hm : s.ms.mode with
  | run => rw [hm] at this; cases this
  | paused => rw [hm] at this; exact this

/-- Every move keeps the schedule's laws. -/
theorem ScheduleLaws.move {s t : State} (h : ScheduleLaws s) (hm : Move s t) : ScheduleLaws t := by
  have ready := h.ready
  cases hm with
  | own | line | answer | wait | ends | initialised | attention | frame | blink | hold
  | detach | bind | rewrite | unbind | unqueue | draw | glassWaits | glassEnds =>
    exact h.congr (fun _ => rfl) rfl rfl rfl
  | clock run => exact h.congr (fun _ => rfl) rfl rfl run.fast
  | dirty => rw [State.markDirty_eq]; exact h.congr (fun _ => rfl) rfl rfl rfl
  | convert hv go =>
    obtain ⟨hq, he, ht, -⟩ := h
    refine ⟨hq.move (.convert hv go), ⟨fun u hu => ?_, fun hn => by cases hn⟩, ht, fun hn => by cases hn⟩
    cases hu
    obtain ⟨hosc, hfast, hcount, c, hc, hmux, hmeth, hlen, htime, hone⟩ := he.1 _ hv
    exact ⟨hosc, by rw [go.method]; exact hfast, go.count hcount, c, by rw [go.channel]; exact hc, hmux,
      go.method.trans hmeth, go.countLen.trans hlen, go.timeout.trans htime, hone⟩
  | complete hv hc => exact ScheduleReady.pick (ready.finished _ hv hc)
  | stop hv hc =>
    obtain ⟨-, -, -, c, hc', -⟩ := h.2.1.1 _ hv
    rw [hc] at hc'
    cases hc'
  | pick => exact ready.pick
  | define hq free check =>
    rename_i i p k q
    obtain ⟨touch, hd⟩ := s.enterChannel_touches i q
    refine ⟨h.1.move (.define hq free check), ready.2.1.touched touch fun _ c hc => (by rw [free] at hc; cases hc),
      ready.2.2.touched touch fun c hc => ?_, fun hn j hj => ?_⟩
    · rw [hd] at hc
      cases hc
      exact Channel.timed_clear (fun e => by cases e) rfl (decodeDef_law hq).2.2.2.2.2.1
    · have hne : j ≠ i := fun e => h.1.not_queued free (e ▸ hj)
      have := h.2.2.2 hn j hj
      unfold State.eligible at this ⊢
      rw [touch.channel j hne]
      exact this
  | modify ht hq hc check =>
    rename_i i c p k q
    have inactive : c.state ≠ .active := fun e => by simp [State.modifyCheck, e] at check
    have timed : (c.modified q).Timed := Channel.timed_clear inactive rfl (decodeDef_law hq).2.2.2.2.2.1
    refine ScheduleReady.pick (ready.without (State.Without.write rfl rfl rfl rfl).1 fun d hd => ?_)
    rw [(State.Without.write (s := s) (d := c.modified q) rfl rfl rfl rfl).2] at hd
    cases hd
    exact timed
  | retire =>
    refine ScheduleReady.pick (ready.without (State.Without.freed rfl rfl rfl rfl).1 fun d hd => ?_)
    rw [(State.Without.freed (s := s) rfl rfl rfl rfl).2] at hd
    cases hd
  | suspend ht hc =>
    rename_i i c
    refine ScheduleReady.pick (ready.without (State.Without.write rfl rfl rfl rfl).1 fun d hd => ?_)
    rw [State.channel_tableWith_self (s := s) rfl] at hd
    cases hd
    exact Channel.timed_clear (fun e => by cases e) rfl (h.2.2.1 i c hc).1
  | start hc inactive =>
    refine ScheduleReady.pick (ready.join hc ⟨rfl, rfl, rfl, rfl, rfl⟩ rfl fun ht => ?_)
    obtain ⟨h1, -, -, h4⟩ := ht
    exact ⟨h1, fun hn => absurd rfl hn, fun _ => ⟨_, rfl, h1, le_refl _⟩, h4⟩
  | measure wait hc => exact (ready.measured hc wait).pick
  | withdraw hc => exact (ready.withdrawn hc).pick
  | pause => exact h.pause
  | resume => exact ScheduleReady.pick (ready.congr (fun _ => rfl) rfl rfl rfl)
  | countdown hc active hn h1 =>
    rename_i i c n
    have plan : ∀ j, ({ s with ct := s.tableWith i { c with
        sched := { c.sched with countdown := some (n - 1) } } } : State).eligible j = s.eligible j := fun j => by
      have e := State.channel_map_tableWith (fun c => c.sched.oneShot) (s := s) (t := { s with
        ct := s.tableWith i { c with sched := { c.sched with countdown := some (n - 1) } } }) rfl hc rfl j
      have any (x : Option Channel) : x.any (fun c => c.sched.oneShot) = (x.map fun c => c.sched.oneShot).any id := by
        cases x <;> rfl
      unfold State.eligible
      rw [any, any, e]
    obtain ⟨hq', he', ht'⟩ := ready.rewrite (t := { s with ct := s.tableWith i { c with
        sched := { c.sched with countdown := some (n - 1) } } }) hc ⟨rfl, rfl, rfl, rfl, rfl, id⟩ rfl fun ht => by
      obtain ⟨t1, t2, t3, t4⟩ := ht
      obtain ⟨m, hm, hm1, hm2⟩ := t3 active
      rw [hn] at hm
      cases hm
      exact ⟨t1, fun hs => absurd active hs, fun _ => ⟨n - 1, rfl, by omega, by dsimp only; omega⟩, t4⟩
    exact ⟨hq', he', ht', fun hnone j hj => (plan j).trans (h.2.2.2 hnone j hj)⟩
  | expire hc active =>
    refine ScheduleReady.pick (ready.join hc ⟨rfl, rfl, rfl, rfl, active⟩ rfl fun ht => ?_)
    obtain ⟨h1, h2, -, h4⟩ := ht
    exact ⟨h1, fun hn => absurd active hn, fun _ => ⟨_, rfl, h1, le_refl _⟩, h4⟩
  | record hc state defn sched =>
    refine h.congr (State.channel_map_tableWith Channel.plan (s := s) rfl hc ?_) rfl rfl rfl
    simp only [Channel.plan, Channel.unmarked, state, defn, sched]
  | apply =>
    cases hg : s.gs.pendingSettings with
    | none => rw [State.applySettings_none hg]; exact h
    | some g => rw [State.applySettings_some hg]; exact h.congr (fun _ => rfl) rfl rfl rfl
  | clear => exact .empty s.cleared_channel rfl rfl rfl
  | reset =>
    exact .empty (s.resetTo_channel _) rfl rfl rfl

/-- Settles O56: every step is a chain of moves, and the schedule's laws hold behind each. -/
theorem stepKeepsScheduleLaws : Obligations.StepKeepsScheduleLaws :=
  step_keeps fun _ _ => ScheduleLaws.move

end Sys2Proof.Machine

/-! SUPPORT. O58: the fields and the liveness of their sources under every move. -/

namespace Sys2Proof.Machine

/-- Every slot live in one state is live in another, with its generation (R3). -/
def State.KeepsLive (s t : State) : Prop :=
  ∀ j, (s.channel j).isSome = true → (t.channel j).isSome = true ∧ t.ct.slots[j].gen = s.ct.slots[j].gen

theorem State.accept_isSome {s : State} {i : Slot} {g : Fin 16} :
    (s.accept i g).isSome = true ↔ s.ct.slots[i].gen = g ∧ (s.channel i).isSome = true := by
  unfold State.accept
  split <;> simp_all

/-- A source that could be set stays one. -/
theorem State.KeepsLive.source {s t : State} (h : s.KeepsLive t) {src : Source} (hs : s.sourceLive src = true) :
    t.sourceLive src = true := by
  cases src with
  | channel i g =>
    obtain ⟨hg, hi⟩ := State.accept_isSome.1 hs
    obtain ⟨hi', hg'⟩ := h i hi
    exact State.accept_isSome.2 ⟨hg'.trans hg, hi'⟩
  | host => rfl
  | detached => rfl

theorem State.KeepsLive.of_ct {s t : State} (h : t.ct = s.ct) : s.KeepsLive t := fun j hj => by
  have e : t.channel j = s.channel j := by unfold State.channel; rw [h]
  exact ⟨by rw [e]; exact hj, by rw [h]⟩

theorem State.KeepsLive.trans {s t u : State} (h : s.KeepsLive t) (h' : t.KeepsLive u) : s.KeepsLive u := fun j hj => by
  obtain ⟨h1, h2⟩ := h j hj
  obtain ⟨h3, h4⟩ := h' j h1
  exact ⟨h3, h4.trans h2⟩

theorem State.KeepsLive.pick (s : State) : s.KeepsLive s.pick := fun j hj => by
  have e := s.pick_channel_map (fun _ => ()) (fun _ => rfl) j
  refine ⟨?_, s.pick_gen j⟩
  cases h : s.pick.channel j with
  | some c => rfl
  | none =>
    obtain ⟨c, hc⟩ := Option.isSome_iff_exists.1 hj
    rw [h, hc] at e
    cases e

/-- A record written keeps every live slot live. -/
theorem State.KeepsLive.write {s t : State} {i : Slot} {d : Channel} (h : t.ct.slots = (s.tableWith i d).slots) :
    s.KeepsLive t := fun j hj => by
  have e : t.channel j = (s.putChannel i d).channel j := by unfold State.channel; rw [h]; rfl
  have g : t.ct.slots[j].gen = (s.putChannel i d).ct.slots[j].gen := by rw [h]; rfl
  rw [e, g, State.putChannel_channel, State.putChannel_gen]
  split
  · exact ⟨rfl, rfl⟩
  · exact ⟨hj, rfl⟩

/-- The sources' law of a state with the same fields and no live slot lost. -/
theorem SourceLaw.keep {s t : State} (h : SourceLaw s) (field : ∀ f, t.field f = s.field f) (live : s.KeepsLive t) :
    SourceLaw t := by
  intro f d hd
  rw [field] at hd
  obtain ⟨h1, h2, h3, h4, h5⟩ := h f d hd
  exact ⟨h1, h2, h3, live.source h4, h5⟩

theorem SourceLaw.congr {s t : State} (h : SourceLaw s) (ft : t.ft = s.ft) (ct : t.ct = s.ct) : SourceLaw t :=
  h.keep (fun f => by unfold State.field; rw [ft]) (.of_ct ct)

theorem SourceLaw.pick {s : State} (h : SourceLaw s) : SourceLaw s.pick :=
  h.keep (fun f => by unfold State.field; rw [s.pick_ft]) (.pick s)

/-- A record written keeps the sources' law. -/
theorem SourceLaw.write {s t : State} {i : Slot} {d : Channel} (h : SourceLaw s) (ft : t.ft = s.ft)
    (ct : t.ct.slots = (s.tableWith i d).slots) : SourceLaw t :=
  h.keep (fun f => by unfold State.field; rw [ft]) (.write ct)

/-- The sources' law as a law of each field and the liveness of its source. -/
theorem sourceLaw_iff {s : State} :
    SourceLaw s ↔ ∀ f d, s.field f = some d → d.Law ∧ s.sourceLive d.source = true := by
  constructor
  · intro h f d hd
    obtain ⟨h1, h2, h3, h4, h5⟩ := h f d hd
    exact ⟨⟨h1, h2, h3, h5⟩, h4⟩
  · intro h f d hd
    obtain ⟨⟨h1, h2, h3, h5⟩, h4⟩ := h f d hd
    exact ⟨h1, h2, h3, h4, h5⟩

/-- A field record written with its laws keeps the sources' law. -/
theorem SourceLaw.writeField {s t : State} {f : FieldIx} {d : Field} (h : SourceLaw s)
    (ft : t.ft.slots = (s.fieldsWith f d).slots) (ct : t.ct = s.ct) (law : d.Law)
    (live : s.sourceLive d.source = true) : SourceLaw t := by
  rw [sourceLaw_iff] at h ⊢
  intro k e he
  rw [State.field_fieldsWith ft] at he
  split at he
  · cases he
    exact ⟨law, (State.KeepsLive.of_ct ct).source live⟩
  · obtain ⟨he', hl⟩ := h k e he
    exact ⟨he', (State.KeepsLive.of_ct ct).source hl⟩

/-- A kind allowed a channel source is allowed DETACHED (R99, R108). -/
theorem admits_detached {k : FieldKind} {i : Slot} {g : Fin 16} (h : admits k (.channel i g) = true) :
    admits k .detached = true := by
  cases k with
  | numeric => rfl
  | bar => rfl
  | indicator c => cases c <;> first | rfl | cases h
  | pattern => cases h

/-- Detachment keeps the laws of a field (R108). -/
theorem Field.Law.detached {d : Field} (h : d.Law) (i : Slot) : (d.detached i).Law := by
  unfold Field.detached
  split
  · next j g hs =>
    split
    · obtain ⟨hk, hdata, ha, hlen, hhost, hform, hfit⟩ := h
      rw [hs] at ha
      refine ⟨hk, hdata, admits_detached ha, hlen, fun hx => ?_, hform, hfit⟩
      have := hhost hx
      rw [hs] at this
      cases this
    · exact h
  · exact h

/-- A detached field's source can be set when the field's own could. -/
theorem State.sourceLive_detached {s : State} {d : Field} (h : s.sourceLive d.source = true) (i : Slot) :
    s.sourceLive (d.detached i).source = true := by
  unfold Field.detached
  split
  · split
    · rfl
    · exact h
  · exact h

/-- A state without fields keeps the sources' law. -/
theorem SourceLaw.empty {s : State} (h : ∀ f, s.field f = none) : SourceLaw s := fun f d hd => by
  rw [h] at hd
  cases hd

/-- The fields after one is retired. -/
theorem State.field_retireField (s : State) (f k : FieldIx) (d : Field) :
    (s.retireField f d).field k = if k = f then none else s.field k := by
  simp only [State.field, State.retireField, State.setFt, State.setRe, vput_get]
  split <;> rfl

theorem State.cleared_field (s : State) (f : FieldIx) : s.cleared.field f = none := by
  simp [State.cleared, State.field, FieldTable.restarted]

theorem State.resetTo_field (s : State) (r : RestartReason) (f : FieldIx) : (s.resetTo r).field f = none := by
  simp [State.resetTo, State.field, State.reset, FieldTable.powerOn]

/-- The application of pending settings is apart from the fields' records. -/
theorem State.applySettings_field (s : State) (f : FieldIx) : s.applySettings.field f = s.field f := by
  cases h : s.gs.pendingSettings with
  | none => rw [State.applySettings_none h]
  | some g => rw [State.applySettings_some h]; rfl

/-- Every move keeps the sources' law. -/
theorem SourceLaw.move {s t : State} (h : SourceLaw s) (hm : Move s t) : SourceLaw t := by
  cases hm with
  | own | line | answer | wait | ends | initialised | attention | clock | frame | blink | hold | convert | pause
  | unqueue | draw | glassWaits | glassEnds => exact h.congr rfl rfl
  | dirty => rw [State.markDirty_eq]; exact h.congr rfl rfl
  | pick => exact h.pick
  | stop => exact SourceLaw.pick (h.congr rfl rfl)
  | resume => exact SourceLaw.pick (h.congr rfl rfl)
  | complete => exact SourceLaw.pick (h.write rfl rfl)
  | start => exact SourceLaw.pick (h.write rfl rfl)
  | suspend => exact SourceLaw.pick (h.write rfl rfl)
  | measure => exact SourceLaw.pick (h.write rfl rfl)
  | expire => exact SourceLaw.pick (h.write rfl rfl)
  | modify => exact SourceLaw.pick (h.write rfl rfl)
  | define => exact h.write (t := s.enterChannel _ _) (d := newChannel _) rfl rfl
  | countdown => exact h.write rfl rfl
  | record => exact h.write rfl rfl
  | withdraw =>
    refine SourceLaw.pick ?_
    obtain ⟨ct, q, e, rfl | ⟨x, rfl⟩⟩ := s.withdrawn_frame _ _
    · rw [e]; exact h.congr rfl rfl
    · rw [e]; exact h.write rfl rfl
  | detach i =>
    rw [sourceLaw_iff] at h ⊢
    intro f e he
    rw [State.detached_field_map (s := s) rfl] at he
    obtain ⟨d, hd, rfl⟩ := Option.map_eq_some_iff.1 he
    obtain ⟨law, live⟩ := h f d hd
    exact ⟨law.detached i, State.sourceLive_detached live i⟩
  | retire ht hc href hau hft =>
    refine SourceLaw.pick ?_
    rename_i i c
    rw [sourceLaw_iff] at h ⊢
    intro f d hd
    obtain ⟨law, live⟩ := h f d hd
    refine ⟨law, ?_⟩
    have named := hft f d
    cases hs : d.source with
    | channel j g =>
      have hne : j ≠ i := fun e => named g hd (by rw [hs, e])
      rw [hs] at live
      obtain ⟨hg, hj⟩ := State.accept_isSome.1 live
      refine State.accept_isSome.2 ⟨?_, by rw [State.channel_freed (s := s) rfl, if_neg hne]; exact hj⟩
      simp only [ChannelTable.freed, vput_get, if_neg hne]
      exact hg
    | host => rfl
    | detached => rfl
  | bind ht free law live => exact h.writeField rfl rfl law live
  | rewrite hd segs law live =>
    rename_i f d e
    obtain ⟨law', live'⟩ := sourceLaw_iff.1 h f d hd
    exact h.writeField rfl rfl (law law') (live live')
  | unbind hd =>
    rw [sourceLaw_iff] at h ⊢
    intro k e he
    rw [State.field_retireField] at he
    split at he
    · cases he
    · exact h k e he
  | apply => exact h.keep s.applySettings_field (.of_ct s.applySettings_ct)
  | clear => exact .empty s.cleared_field
  | reset => exact .empty (s.resetTo_field _)

/-- Settles O58: every step is a chain of moves, and the sources' law holds behind each. -/
theorem stepKeepsSourceLaw : Obligations.StepKeepsSourceLaw :=
  step_keeps fun _ _ => SourceLaw.move

end Sys2Proof.Machine

/-! SUPPORT. O59: ownership, planes, render queue, settings, port states and counts under every move. -/

namespace Sys2Proof.Machine

/-! ## The port -/

/-- The port's law speaks of the host port and of a held reset. -/
theorem PortLaw.congr {s t : State} (h : PortLaw s) (hp : t.hp = s.hp) (held : t.csu.held = true → s.csu.held = true) :
    PortLaw t := by
  obtain ⟨h1, h2, h3⟩ := h
  exact ⟨by rw [hp]; exact h1, by rw [hp]; exact h2, fun ht => by rw [hp]; exact h3 (held ht)⟩

/-- A port that takes a frame has no request waiting (R164). -/
theorem State.takes.waiting {s : State} (ht : s.takes) (h : PortLaw s) : s.hp.waiting = none := by
  obtain ⟨-, hp⟩ := ht
  rw [← Option.not_isSome_iff_eq_none, ← h.1]
  rcases hp with hp | hp <;> rw [hp] <;> simp

/-- No request waits while a reset is held. -/
theorem PortLaw.unheld {s : State} (h : PortLaw s) {w : Waiting} (hw : s.hp.waiting = some w) :
    s.csu.held = false := by
  have busy := h.1.2 (by rw [hw]; rfl)
  refine Bool.eq_false_iff.2 fun hh => ?_
  rw [(h.2.2 hh).1] at busy
  cases busy

theorem PortLaw.answered {s : State} {hp : HostPort} (h : s.Answered hp) : PortLaw { s with hp := hp } := by
  refine ⟨?_, ?_, fun hh => ?_⟩
  · change hp.port = .busy ↔ hp.waiting.isSome = true
    simp [h.port, h.waiting]
  · change hp.port = .done ↔ hp.response.isSome = true
    simp [h.port, h.response]
  · change s.csu.held = true at hh
    rw [h.takes.1.1] at hh
    cases hh

theorem PortLaw.waits {s : State} {hp : HostPort} {w : Waiting} (h : s.Waits hp w) : PortLaw { s with hp := hp } := by
  refine ⟨?_, ?_, fun hh => ?_⟩
  · change hp.port = .busy ↔ hp.waiting.isSome = true
    simp [h.port, h.waiting]
  · change hp.port = .done ↔ hp.response.isSome = true
    simp [h.port, h.response]
  · change s.csu.held = true at hh
    rw [h.takes.1.1] at hh
    cases hh

theorem PortLaw.ended {s : State} {hp : HostPort} {w : Waiting} (hport : PortLaw s) (h : s.Ends hp w) :
    PortLaw { s with hp := hp } := by
  refine ⟨?_, ?_, fun hh => ?_⟩
  · change hp.port = .busy ↔ hp.waiting.isSome = true
    simp [h.port, h.waiting]
  · change hp.port = .done ↔ hp.response.isSome = true
    simp [h.port, h.response]
  · change s.csu.held = true at hh
    rw [hport.unheld h.waits] at hh
    cases hh

theorem PortLaw.endWait {s : State} (h : PortLaw s) (w : Waiting) (code : ResultCode) (p : List Byte) :
    PortLaw { s with hp := if s.hp.waiting = some w then s.ended code p else s.hp } := by
  split
  · next hw => exact h.ended (w := w) ⟨hw, rfl, rfl, rfl⟩
  · exact h

/-- The lines of the port, and the end of the initialisation, keep the port's law. -/
theorem PortLaw.line {s : State} {hp : HostPort} (h : PortLaw s) (port : hp.port = s.hp.port)
    (waiting : hp.waiting = s.hp.waiting) (response : hp.response = s.hp.response)
    (quiet : s.csu.held = true → ∀ b, hp.select = .low b → hp.sdo = []) : PortLaw { s with hp := hp } := by
  obtain ⟨h1, h2, h3⟩ := h
  refine ⟨?_, ?_, fun hh => ⟨port.trans (h3 hh).1, quiet hh⟩⟩
  · change hp.port = .busy ↔ hp.waiting.isSome = true
    rw [port, waiting]; exact h1
  · change hp.port = .done ↔ hp.response.isSome = true
    rw [port, response]; exact h2

theorem PortLaw.initialised {s : State} {hp : HostPort} (h : PortLaw s) (init : s.hp.port = .init)
    (held : s.csu.held = false) (port : hp.port = .idle) (waiting : hp.waiting = s.hp.waiting)
    (response : hp.response = s.hp.response) : PortLaw { s with hp := hp } := by
  obtain ⟨h1, h2, -⟩ := h
  rw [init] at h1 h2
  refine ⟨?_, ?_, fun hh => ?_⟩
  · change hp.port = .busy ↔ hp.waiting.isSome = true
    rw [port, waiting, ← h1]; simp
  · change hp.port = .done ↔ hp.response.isSome = true
    rw [port, response, ← h2]; simp
  · change s.csu.held = true at hh
    rw [held] at hh; cases hh

theorem PortLaw.reset (s : State) (r : RestartReason) : PortLaw (s.resetTo r) := by
  refine ⟨by simp [State.resetTo, HostPort.initial], by simp [State.resetTo, HostPort.initial], fun _ => ⟨rfl, fun b hb => ?_⟩⟩
  change s.hp.select.reset = .low b at hb
  cases hs : s.hp.select <;> rw [hs] at hb <;> cases hb

theorem PortLaw.pick {s : State} (h : PortLaw s) : PortLaw s.pick :=
  h.congr s.pick_hp (by rw [s.pick_held]; exact id)

theorem State.clocksWithout_held (s : State) (i : Slot) : (s.clocksWithout i).held = s.csu.held := by
  unfold State.clocksWithout
  split <;> rfl

/-- Every move keeps the port's law. -/
theorem PortLaw.move {s t : State} (h : PortLaw s) (hm : Move s t) : PortLaw t := by
  cases hm with
  | own | attention | frame | blink | hold | convert | pause | detach | bind | rewrite | unbind | unqueue | draw
  | define | countdown | record | clear => exact h.congr rfl id
  | line port waiting response quiet => exact h.line port waiting response quiet
  | answer ha => exact .answered ha
  | wait hw => exact .waits hw
  | glassWaits hw => exact (PortLaw.waits hw).congr rfl id
  | ends he => exact h.ended he
  | glassEnds he => exact (h.ended he).congr rfl id
  | initialised init held port waiting response => exact h.initialised init held port waiting response
  | clock run => exact h.congr rfl run.held
  | dirty => rw [State.markDirty_eq]; exact h.congr rfl id
  | pick => exact h.pick
  | complete | stop | start | measure | resume | expire => exact PortLaw.pick (h.congr rfl id)
  | modify | retire | suspend =>
    exact PortLaw.pick (h.congr rfl fun hh => by rw [← hh]; exact (s.clocksWithout_held _).symm)
  | withdraw =>
    obtain ⟨ct, q, e, -⟩ := s.withdrawn_frame _ _
    rw [e]
    exact PortLaw.pick (h.congr rfl id)
  | apply =>
    cases hg : s.gs.pendingSettings with
    | none => rw [State.applySettings_none hg]; exact h
    | some g => rw [State.applySettings_some hg]; exact (h.endWait .setGlass .ok []).congr rfl id
  | reset => exact .reset s _

/-! ## Owners, planes and the render queue -/

/-- What a listed address says of its owner. -/
theorem OwnerLaw.owner {s : State} (h : OwnerLaw s) {f : FieldIx} {d : Field} {a : SegAddr} (hd : s.field f = some d)
    (ha : a ∈ d.segs) : s.ft.owners[a] = some f :=
  (h.1 a f).2 ⟨d, hd, ha⟩

/-- The owners' law speaks of each field's list, the ownership map and the duty. -/
theorem OwnerLaw.congr {s t : State} (h : OwnerLaw s)
    (segs : ∀ f, (t.field f).map Field.segs = (s.field f).map Field.segs) (owners : ∀ a : SegAddr, t.ft.owners[a] = s.ft.owners[a])
    (geometry : ∀ f d, s.field f = some d → ∀ a ∈ d.segs, inGeometry t.gs.settings.duty a = true) : OwnerLaw t := by
  have same {f : FieldIx} {e : Field} (he : t.field f = some e) : ∃ d, s.field f = some d ∧ d.segs = e.segs := by
    have := segs f
    rw [he] at this
    exact Option.map_eq_some_iff.1 this.symm
  refine ⟨fun a f => ?_, fun f e he => ?_⟩
  · rw [owners, h.1]
    constructor
    · rintro ⟨d, hd, ha⟩
      have := segs f
      rw [Option.mem_def.1 hd] at this
      obtain ⟨e, he, hs⟩ := Option.map_eq_some_iff.1 this
      exact ⟨e, he, by rw [hs]; exact ha⟩
    · rintro ⟨e, he, ha⟩
      obtain ⟨d, hd, hs⟩ := same he
      exact ⟨d, hd, by rw [hs]; exact ha⟩
  · obtain ⟨d, hd, hs⟩ := same he
    rw [← hs]
    exact ⟨(h.2 f d hd).1, geometry f d hd⟩

theorem OwnerLaw.bind {s : State} {f : FieldIx} {d : Field} (h : OwnerLaw s) (free : s.field f = none)
    (nodup : d.segs.Nodup) (geometry : ∀ a ∈ d.segs, inGeometry s.gs.settings.duty a = true)
    (unowned : ∀ a ∈ d.segs, s.ft.owners[a] = none) : OwnerLaw (s.bound f d) := by
  have field (k : FieldIx) := State.field_fieldsWith (s := s) (t := s.bound f d) (f := f) (d := d) rfl k
  refine ⟨fun a k => ?_, fun k e he => ?_⟩
  · rw [field]
    change (setOwners s.ft.owners d.segs (some f))[a] = some k ↔ _
    rw [setOwners_get]
    by_cases hk : k = f
    · subst hk
      have notOwned : s.ft.owners[a] ≠ some k := fun e => by
        obtain ⟨e', he', -⟩ := (h.1 a k).1 e
        rw [free] at he'; cases he'
      split <;> simp_all
    · rw [if_neg hk, ← h.1]
      split
      · next ha => rw [unowned a ha]; simp [Ne.symm hk]
      · rfl
  · rw [field] at he
    split at he
    · cases he; exact ⟨nodup, geometry⟩
    · exact h.2 k e he

theorem OwnerLaw.unbind {s : State} {f : FieldIx} {d : Field} (h : OwnerLaw s) (hd : s.field f = some d) :
    OwnerLaw (s.retireField f d) := by
  refine ⟨fun a k => ?_, fun k e he => ?_⟩
  · rw [State.field_retireField]
    change (setOwners s.ft.owners d.segs none)[a] = some k ↔ _
    rw [setOwners_get]
    by_cases hk : k = f
    · subst hk
      have notListed (ha : a ∉ d.segs) : s.ft.owners[a] ≠ some k := fun e => by
        obtain ⟨e', he', ha'⟩ := (h.1 a k).1 e
        rw [hd] at he'; cases he'
        exact ha ha'
      split <;> simp_all
    · rw [if_neg hk, ← h.1]
      split
      · next ha => rw [h.owner hd ha]; simp [Ne.symm hk]
      · rfl
  · rw [State.field_retireField] at he
    split at he
    · cases he
    · exact h.2 k e he

/-- The planes' law of a state with no fewer owners and the pending plane dark where it was. -/
theorem PlaneLaw.of {s t : State} (h : PlaneLaw s)
    (dark : ∀ a : SegAddr, t.ft.owners[a] = none →
      t.re.plane[a] = .off ∨ (s.ft.owners[a] = none ∧ t.re.plane[a] = s.re.plane[a])) : PlaneLaw t := by
  intro a ha
  obtain e | ⟨hs, e⟩ := dark a ha
  · exact e
  · rw [e]; exact h a hs

/-- The render queue's law of a state that keeps its fields. -/
theorem RenderQueueLaw.congr {s t : State} (h : RenderQueueLaw s) (queue : t.re.queue = s.re.queue)
    (live : ∀ f, (s.field f).isSome = true → (t.field f).isSome = true) : RenderQueueLaw t :=
  ⟨by rw [queue]; exact h.1, fun f hf => live f (h.2 f (by rwa [queue] at hf))⟩

/-- A live field marked dirty keeps the render queue's law. -/
theorem RenderQueueLaw.dirty {s t : State} {f : FieldIx} (h : RenderQueueLaw s) (queue : t.re.queue = (s.dirtied [f]).queue)
    (live : (t.field f).isSome = true) (others : ∀ k, (s.field k).isSome = true → (t.field k).isSome = true) :
    RenderQueueLaw t := by
  unfold RenderQueueLaw
  rw [queue]
  by_cases hf : f ∈ s.re.queue
  · have e : (s.dirtied [f]).queue = s.re.queue := by simp [State.dirtied, hf]
    rw [e]
    exact ⟨h.1, fun k hk => others k (h.2 k hk)⟩
  · have e : (s.dirtied [f]).queue = s.re.queue ++ [f] := by simp [State.dirtied, hf]
    rw [e]
    refine ⟨List.nodup_append.2 ⟨h.1, by simp, fun a ha b hb => ?_⟩, fun k hk => ?_⟩
    · cases List.mem_singleton.1 hb
      exact fun e => hf (e ▸ ha)
    · rcases List.mem_append.1 hk with hk | hk
      · exact others k (h.2 k hk)
      · cases List.mem_singleton.1 hk; exact live

/-! ## The settings -/

/-- The settings' law of a state with the same settings and no more owners. -/
theorem GlassLaw.congr {s t : State} (h : GlassLaw s) (settings : t.gs.settings = s.gs.settings)
    (pending : t.gs.pendingSettings = s.gs.pendingSettings) (hold : t.gs.hold = s.gs.hold)
    (waiting : t.hp.waiting = s.hp.waiting)
    (owners : ∀ a : SegAddr, t.ft.owners[a].isSome = true → s.ft.owners[a].isSome = true) : GlassLaw t := by
  obtain ⟨h1, h2, h3⟩ := h
  refine ⟨by rw [pending, waiting]; exact h1, fun g hg => ?_, by rw [settings]; exact h3⟩
  rw [pending] at hg
  obtain ⟨hb, hh, ho⟩ := h2 g hg
  exact ⟨hb, by rw [hold]; exact hh, fun a ha => ho a (owners a ha)⟩

/-- Without pending settings and without a waiting SET_GLASS only the bias is asked for. -/
theorem GlassLaw.of_none {t : State} (pending : t.gs.pendingSettings = none) (waiting : t.hp.waiting ≠ some .setGlass)
    (bias : t.gs.settings.bias = .half → t.gs.settings.duty = .third) : GlassLaw t := by
  refine ⟨by simp [pending, waiting], fun g hg => ?_, bias⟩
  rw [pending] at hg
  cases hg

/-- No settings are pending without a waiting SET_GLASS. -/
theorem GlassLaw.pending_none {s : State} (h : GlassLaw s) (hw : s.hp.waiting ≠ some .setGlass) :
    s.gs.pendingSettings = none := by
  rw [← Option.not_isSome_iff_eq_none, h.1]
  exact hw

/-- No settings are pending where a frame is taken, or under a hold (R143, R164). -/
theorem GlassLaw.takes {s : State} (h : GlassLaw s) (hp : PortLaw s) (ht : s.takes) : s.gs.pendingSettings = none :=
  h.pending_none (by rw [ht.waiting hp]; simp)

theorem decodeGlass_bias {p : List Byte} {g : GlassSettings} (h : decodeGlass p = some g) :
    g.bias = .half → g.duty = .third := by
  unfold decodeGlass at h
  split at h
  · next d b f on _ _ _ _ =>
    split at h
    · split at h
      · cases h
      · next hn =>
        cases h
        intro hb
        cases d
        · exact absurd ⟨hb, rfl⟩ hn
        · rfl
    · cases h
  · cases h

/-- A duty without a conflict keeps every owned address (R143). -/
theorem State.conflict_none {s : State} {d : Duty} (h : s.conflict d = none) (a : SegAddr)
    (hold : inGeometry s.gs.settings.duty a = true) (ha : s.ft.owners[a].isSome = true) : inGeometry d a = true := by
  by_contra hd
  unfold State.conflict at h
  rw [List.findSome?_eq_none_iff] at h
  have := h a (by simp [removedBy, geometry, hold, hd])
  rw [Option.map_eq_none_iff] at this
  rw [this] at ha
  cases ha

/-- An owned address is one of the geometry (R101). -/
theorem OwnerLaw.geometry {s : State} (h : OwnerLaw s) {a : SegAddr} (ha : s.ft.owners[a].isSome = true) :
    inGeometry s.gs.settings.duty a = true := by
  obtain ⟨f, hf⟩ := Option.isSome_iff_exists.1 ha
  obtain ⟨d, hd, hs⟩ := (h.1 a f).1 hf
  exact (h.2 f d hd).2 a hs

/-- Pending settings applied keep the display's laws (R102, R137). -/
theorem DisplayLaws.apply {s : State} (h : DisplayLaws s) (held : s.csu.held = false) :
    DisplayLaws s.applySettings := by
  cases hg : s.gs.pendingSettings with
  | none => rw [State.applySettings_none hg]; exact h
  | some g =>
    have port : PortLaw s.applySettings := h.2.2.2.2.1.move (.apply held)
    obtain ⟨ho, hp, hr, hglass, -, hc⟩ := h
    obtain ⟨hbias, -, hown⟩ := hglass.2.1 g hg
    have waiting : s.hp.waiting = some .setGlass := hglass.1.1 (by rw [hg]; rfl)
    have owners (a : SegAddr) : (carryDuty s.gs.settings.duty g.duty none s.ft.owners)[a] = s.ft.owners[a] := by
      rw [carryDuty_get]
      split
      · rfl
      · next hn =>
        cases hs : s.ft.owners[a] with
        | none => rfl
        | some f =>
          have hsome : s.ft.owners[a].isSome = true := by rw [hs]; rfl
          exact absurd (.inr ⟨ho.geometry hsome, hown a hsome⟩) hn
    rw [State.applySettings_some hg] at port ⊢
    refine ⟨ho.congr (fun _ => rfl) owners fun f d hd a ha => hown a (by rw [ho.owner hd ha]; rfl),
      hp.of fun a ha => ?_, hr.congr rfl fun _ => id, .of_none rfl ?_ hbias, port, hc⟩
    · change (carryDuty s.gs.settings.duty g.duty .off s.re.plane)[a] = .off ∨ _
      rw [carryDuty_get]
      split
      · next hk =>
        refine .inl (hp a ?_)
        exact (owners a).symm.trans ha
      · exact .inl rfl
    · dsimp only
      rw [if_pos waiting]
      simp [State.ended]

/-- The display's laws of a state whose display, port and clock unit are those of another. -/
theorem DisplayLaws.congr {s t : State} (h : DisplayLaws s) (ft : t.ft = s.ft) (re : t.re = s.re) (gs : t.gs = s.gs)
    (hp : t.hp = s.hp) (held : t.csu.held = s.csu.held) (divider : t.csu.divider = s.csu.divider)
    (init : t.csu.initCount = s.csu.initCount) : DisplayLaws t := by
  have field (f : FieldIx) : t.field f = s.field f := by unfold State.field; rw [ft]
  obtain ⟨h1, h2, h3, h4, h5, h6⟩ := h
  refine ⟨h1.congr (fun f => by rw [field]) (fun a => by rw [ft]) fun f d hd => ?_, h2.of fun a ha => .inr ?_,
    h3.congr (by rw [re]) fun f hf => by rw [field]; exact hf,
    h4.congr (by rw [gs]) (by rw [gs]) (by rw [gs]) (by rw [hp]) fun a ha => by rwa [ft] at ha,
    h5.congr hp (by rw [held]; exact id), ?_⟩
  · rw [gs]; exact (h1.2 f d hd).2
  · exact ⟨by rwa [ft] at ha, by rw [re]⟩
  · unfold CountLaw
    rw [gs, divider, init]
    exact h6

theorem DisplayLaws.pick {s : State} (h : DisplayLaws s) : DisplayLaws s.pick := by
  obtain ⟨slots, q, ce, fast, e⟩ := s.pick_frame
  rw [e]
  exact h.congr rfl rfl rfl rfl rfl rfl rfl

/-- A host port that keeps no SET_GLASS waiting, put where none waited, keeps the display's laws. -/
theorem DisplayLaws.port {s : State} {hp : HostPort} (h : DisplayLaws s) (port : PortLaw { s with hp := hp })
    (before : s.hp.waiting ≠ some .setGlass) (after : hp.waiting ≠ some .setGlass) : DisplayLaws { s with hp := hp } := by
  obtain ⟨h1, h2, h3, h4, -, h6⟩ := h
  exact ⟨h1, h2, h3, .of_none (h4.pending_none before) after h4.2.2, port, h6⟩

theorem DisplayLaws.bind {s : State} {f : FieldIx} {d : Field} (h : DisplayLaws s) (ht : s.takes)
    (free : s.field f = none) (nodup : d.segs.Nodup)
    (geometry : ∀ a ∈ d.segs, inGeometry s.gs.settings.duty a = true)
    (unowned : ∀ a ∈ d.segs, s.ft.owners[a] = none) : DisplayLaws (s.bound f d) := by
  obtain ⟨h1, h2, h3, h4, h5, h6⟩ := h
  have field (k : FieldIx) := State.field_fieldsWith (s := s) (t := s.bound f d) (f := f) (d := d) rfl k
  have pending := h4.takes h5 ht
  refine ⟨h1.bind free nodup geometry unowned, h2.of fun a ha => .inr ⟨?_, rfl⟩, h3.dirty rfl ?_ fun k hk => ?_,
    .of_none pending ?_ h4.2.2, h5, h6⟩
  · change (setOwners s.ft.owners d.segs (some f))[a] = none at ha
    rw [setOwners_get] at ha
    split at ha
    · cases ha
    · exact ha
  · rw [field, if_pos rfl]; rfl
  · rw [field]
    split
    · rfl
    · exact hk
  · change s.hp.waiting ≠ some .setGlass
    rw [ht.waiting h5]
    simp

theorem DisplayLaws.unbind {s : State} {f : FieldIx} {d : Field} (h : DisplayLaws s) (hd : s.field f = some d) :
    DisplayLaws (s.retireField f d) := by
  obtain ⟨h1, h2, h3, h4, h5, h6⟩ := h
  have owners (a : SegAddr) : (s.retireField f d).ft.owners[a] = if a ∈ d.segs then none else s.ft.owners[a] :=
    setOwners_get s.ft.owners d.segs none a
  refine ⟨h1.unbind hd, h2.of fun a ha => ?_, ⟨h3.1.erase f, fun k hk => ?_⟩, h4.congr rfl rfl rfl rfl fun a ha => ?_, h5, h6⟩
  · have plane : (s.retireField f d).re.plane[a] = if a ∈ d.segs then .off else s.re.plane[a] :=
      Plane.write_const_get s.re.plane d.segs .off a
    rw [owners] at ha
    rw [plane]
    split
    · exact .inl rfl
    · next hn => rw [if_neg hn] at ha; exact .inr ⟨ha, rfl⟩
  · change k ∈ s.re.queue.erase f at hk
    rw [State.field_retireField, if_neg fun e => h3.1.not_mem_erase (e ▸ hk)]
    exact h3.2 k (List.mem_of_mem_erase hk)
  · rw [owners] at ha
    split at ha
    · cases ha
    · exact ha

/-- A reset leaves no field, no owner, dark planes and the power-on settings (R112, R130, R147). -/
theorem DisplayLaws.reset (s : State) (r : RestartReason) : DisplayLaws (s.resetTo r) := by
  refine ⟨⟨fun a f => ?_, fun f d hd => ?_⟩, fun a _ => ?_, ⟨List.nodup_nil, fun f hf => (by cases hf)⟩,
    .of_none rfl ?_ ?_, .reset s r, ?_⟩
  · rw [State.resetTo_field]
    simp [State.resetTo, State.reset, FieldTable.powerOn]
  · rw [State.resetTo_field] at hd; cases hd
  · simp [State.resetTo, State.reset, Renderer.initial, Plane.dark]
  · simp [State.resetTo, HostPort.initial]
  · simp [State.resetTo, State.reset, Scanner.powerOn, GlassSettings.powerOn]
  · simp [CountLaw, State.resetTo, State.reset, Scanner.powerOn, ClockUnit.powerOn]

/-- Every move keeps the display's laws. -/
theorem DisplayLaws.move {s t : State} (h : DisplayLaws s) (hm : Move s t) : DisplayLaws t := by
  have port : PortLaw t := PortLaw.move h.2.2.2.2.1 hm
  have ⟨h1, h2, h3, h4, h5, h6⟩ := h
  cases hm with
  | own | attention | convert | pause | define | countdown | record => exact h.congr rfl rfl rfl rfl rfl rfl rfl
  | pick => exact h.pick
  | complete | stop | start | measure | resume | expire => exact DisplayLaws.pick (h.congr rfl rfl rfl rfl rfl rfl rfl)
  | modify | retire | suspend =>
    refine DisplayLaws.pick (h.congr rfl rfl rfl rfl (s.clocksWithout_held _) ?_ ?_) <;>
      simp only [State.clocksWithout, State.suspended] <;> split <;> rfl
  | withdraw =>
    obtain ⟨ct, q, e, -⟩ := s.withdrawn_frame _ _
    rw [e]
    exact DisplayLaws.pick (h.congr rfl rfl rfl rfl rfl rfl rfl)
  | line _ waiting => exact ⟨h1, h2, h3, h4.congr rfl rfl rfl waiting fun _ => id, port, h6⟩
  | initialised _ _ _ waiting => exact ⟨h1, h2, h3, h4.congr rfl rfl rfl waiting fun _ => id, port, h6⟩
  | answer ha => exact h.port port (by rw [ha.takes.waiting h5]; simp) (by rw [ha.waiting]; simp)
  | wait hw glass => exact h.port port (by rw [hw.takes.waiting h5]; simp) (by rw [hw.waiting]; simpa using glass)
  | ends he glass => exact h.port port (by rw [he.waits]; simpa using glass) (by rw [he.waiting]; simp)
  | clock run =>
    obtain ⟨c1, c2, c3, c4, c5, c6, c7, c8⟩ := h6
    exact ⟨h1, h2, h3, h4, port, c1, run.divider c2, run.init c3, c4, c5, c6, c7, c8⟩
  | frame shown drive changed timer =>
    obtain ⟨c1, c2, c3, c4, c5, c6, c7, c8⟩ := h6
    exact ⟨h1, h2, h3, h4, port, timer c1, c2, c3, c4, c5, c6, c7, c8⟩
  | blink hs hf =>
    obtain ⟨c1, c2, c3, c4, c5, c6, c7, c8⟩ := h6
    obtain ⟨b5, b6⟩ := hs ⟨c5, c6⟩
    obtain ⟨b7, b8⟩ := hf ⟨c7, c8⟩
    exact ⟨h1, h2, h3, h4, port, c1, c2, c3, c4, b5, b6, b7, b8⟩
  | hold running range =>
    obtain ⟨c1, c2, c3, c4, c5, c6, c7, c8⟩ := h6
    have pending : s.gs.pendingSettings = none := by
      rcases running with ht | hh
      · exact h4.takes h5 ht
      · cases hg : s.gs.pendingSettings with
        | none => rfl
        | some g => rw [(h4.2.1 g hg).2.1] at hh; cases hh
    have waiting : s.hp.waiting ≠ some .setGlass := fun hw => by
      have := h4.1.2 hw
      rw [pending] at this
      cases this
    exact ⟨h1, h2, h3, .of_none pending waiting h4.2.2, port, c1, c2, c3, range c4, c5, c6, c7, c8⟩
  | dirty live =>
    rw [State.markDirty_eq] at port ⊢
    exact ⟨h1, h2, h3.dirty rfl live fun _ => id, h4, port, h6⟩
  | detach i =>
    have field := State.detached_field_map (s := s) (t := { s with
      ft := { s.ft with slots := s.ft.slots.map (FieldSlot.detach i) } }) (i := i) rfl
    refine ⟨h1.congr (fun f => ?_) (fun _ => rfl) fun f d hd => (h1.2 f d hd).2, h2,
      h3.congr rfl fun f hf => by rw [field, Option.isSome_map]; exact hf, h4, port, h6⟩
    rw [field, Option.map_map]
    refine congrFun (congrArg Option.map (funext fun d => ?_)) _
    simp only [Function.comp, Field.detached]
    split
    · split <;> rfl
    · rfl
  | bind ht free _ _ nodup geometry unowned => exact h.bind ht free nodup geometry unowned
  | rewrite hd segs =>
    rename_i f d e _ _
    have field (k : FieldIx) := State.field_fieldsWith (s := s) (t := { s with ft := s.fieldsWith f e }) (f := f) (d := e) rfl k
    refine ⟨h1.congr (fun k => ?_) (fun _ => rfl) fun k x hx => (h1.2 k x hx).2, h2, h3.congr rfl fun k hk => ?_,
      h4, port, h6⟩
    · rw [field]
      split
      · next e => rw [e, hd]; exact congrArg some segs
      · rfl
    · rw [field]
      split
      · rfl
      · exact hk
  | unbind hd => exact h.unbind hd
  | unqueue hq =>
    have hq' := h3.1
    rw [hq] at hq'
    exact ⟨h1, h2, ⟨(List.nodup_cons.1 hq').2, fun f hf => h3.2 f (by rw [hq]; exact List.mem_cons_of_mem _ hf)⟩,
      h4, port, h6⟩
  | draw hd =>
    refine ⟨h1, h2.of fun a ha => .inr ⟨ha, ?_⟩, h3, h4, port, h6⟩
    refine Plane.write_get_of_notMem _ _ _ fun hmem => ?_
    obtain ⟨w, hw, rfl⟩ := List.mem_map.1 hmem
    have owned := h1.owner hd (List.of_mem_zip hw).1
    change s.ft.owners[w.1] = none at ha
    rw [owned] at ha
    cases ha
  | glassWaits hw hg hold fits =>
    rename_i hp p g
    refine ⟨h1, h2, h3, ⟨?_, fun x hx => ?_, h4.2.2⟩, port, h6⟩
    · change (some g).isSome ↔ hp.waiting = some .setGlass
      simp [hw.waiting]
    · cases hx
      exact ⟨decodeGlass_bias hg, hold, fun a ha => State.conflict_none fits a (h1.geometry ha) ha⟩
  | glassEnds he =>
    refine ⟨h1, h2, h3, .of_none rfl ?_ h4.2.2, port, h6⟩
    dsimp only
    rw [he.waiting]
    simp
  | apply held => exact h.apply held
  | clear ht =>
    obtain ⟨c1, c2, c3, c4, c5, c6, c7, c8⟩ := h6
    refine ⟨⟨fun a f => ?_, fun f d hd => ?_⟩, fun a _ => ?_, ⟨List.nodup_nil, fun f hf => (by cases hf)⟩,
      .of_none (h4.takes h5 ht) ?_ h4.2.2, port, c1, c2, c3, fun n hn => (by cases hn), c5, c6, c7, c8⟩
    · rw [State.cleared_field]
      simp [State.cleared, FieldTable.restarted]
    · rw [State.cleared_field] at hd; cases hd
    · simp [State.cleared, Renderer.initial, Plane.dark]
    · change s.hp.waiting ≠ some .setGlass
      rw [ht.waiting h5]
      simp
  | reset => exact .reset s _

/-- Settles O59: every step is a chain of moves, and the display's laws hold behind each. -/
theorem stepKeepsDisplayLaws : Obligations.StepKeepsDisplayLaws :=
  step_keeps fun _ _ => DisplayLaws.move

end Sys2Proof.Machine

/-! SUPPORT. O60: attention pairs and waiting requests under every move. -/

namespace Sys2Proof.Machine

/-! ## Attention pairs -/

/-- The pairs' law of a state with the same attention set and no live slot lost. -/
theorem PairLaw.keep {s t : State} (h : PairLaw s) (au : t.au = s.au) (live : s.KeepsLive t) : PairLaw t := by
  intro i hi
  rw [au] at hi
  exact (live i (h i hi)).1

theorem PairLaw.pick {s : State} (h : PairLaw s) : PairLaw s.pick := h.keep s.pick_au (.pick s)

/-- A reset empties the attention set (R159). -/
theorem PairLaw.reset (s : State) (r : RestartReason) : PairLaw (s.resetTo r) := fun i hi => by
  have empty_i : (s.resetTo r).au.channels[i] = SlotPairs.empty := by
    simp [State.resetTo, State.reset, Attention.powerOn]
  rw [empty_i] at hi
  cases hi

/-- Every move keeps the pairs' law. -/
theorem PairLaw.move {s t : State} (h : PairLaw s) (hm : Move s t) : PairLaw t := by
  cases hm with
  | own | line | answer | wait | ends | initialised | clock | frame | blink | hold | convert | pause | detach | bind
  | rewrite | unbind | unqueue | draw | glassWaits | glassEnds => exact h.keep rfl (.of_ct rfl)
  | dirty => rw [State.markDirty_eq]; exact h.keep rfl (.of_ct rfl)
  | attention live => exact fun i hi => (live i hi).elim (h i) id
  | define => exact h.keep (t := s.enterChannel _ _) rfl (.write (d := newChannel _) rfl)
  | countdown | record => exact h.keep rfl (.write rfl)
  | complete | start | measure | expire | modify | suspend =>
    exact PairLaw.pick (h.keep rfl (.write rfl))
  | stop | resume => exact PairLaw.pick (h.keep rfl (.of_ct rfl))
  | pick => exact h.pick
  | withdraw =>
    obtain ⟨ct, q, e, rfl | ⟨x, rfl⟩⟩ := s.withdrawn_frame _ _
    · rw [e]; exact PairLaw.pick (h.keep rfl (.of_ct rfl))
    · rw [e]; exact PairLaw.pick (h.keep rfl (.write rfl))
  | retire ht hc href hau =>
    refine PairLaw.pick fun j hj => ?_
    rw [State.channel_freed (s := s) rfl]
    split
    · next e =>
      subst e
      change s.au.channels[j].any = true at hj
      rw [hau] at hj
      cases hj
    · exact h j hj
  | apply =>
    refine h.keep ?_ (.of_ct s.applySettings_ct)
    cases hg : s.gs.pendingSettings with
    | none => rw [State.applySettings_none hg]
    | some g => rw [State.applySettings_some hg]
  | clear =>
    intro i hi
    have none_i : s.cleared.au.channels[i] = SlotPairs.empty := by simp [State.cleared, Attention.clear, Attention.powerOn]
    rw [none_i] at hi
    cases hi
  | reset => exact .reset s _

/-! ## Waiting requests -/

/-- A channel is served in a state that keeps its entry or conversion and its one-shot fields. -/
theorem State.Served.congr {s t : State} {i : Slot} (h : s.Served i)
    (queued : s.queued i = true → t.queued i = true)
    (converting : s.converting i = true → t.converting i = true)
    (asked : (t.channel i).map (fun c => (c.sched.oneShot, c.sched.notice)) =
      (s.channel i).map fun c => (c.sched.oneShot, c.sched.notice)) : t.Served i := by
  obtain ⟨hq, c, hc, ho, hn⟩ := h
  rw [Option.mem_def.1 hc] at asked
  obtain ⟨d, hd, e⟩ := Option.map_eq_some_iff.1 asked
  simp only [Prod.mk.injEq] at e
  exact ⟨hq.imp queued converting, d, hd, e.1.trans ho, e.2.trans hn⟩

/-- The law of the waiting request of a state that keeps every served channel served and makes no other request wait. -/
theorem WaitLaw.keep {s t : State} (h : WaitLaw s)
    (served : ∀ i, t.hp.waiting = some (.measureNow i) → s.hp.waiting = some (.measureNow i) ∧ (s.Served i → t.Served i)) :
    WaitLaw t := fun i hi => by
  obtain ⟨hw, keep⟩ := served i hi
  exact keep (h i hw)

/-- The same for a state in which no request waits. -/
theorem WaitLaw.idle {s : State} (h : s.hp.waiting = none) : WaitLaw s := fun i hi => by
  rw [h] at hi
  cases hi

theorem WaitLaw.pick {s : State} (h : WaitLaw s) : WaitLaw s.pick := fun i hi => by
  rw [s.pick_hp] at hi
  exact State.Served.pick (h i hi)

/-- A channel that is not converting and served is queued. -/
theorem State.Served.entry {s : State} {i : Slot} (h : s.Served i) (hv : s.converting i ≠ true) : s.queued i = true :=
  h.1.resolve_right hv

/-- A completion, of a channel of which no request waits, keeps the waiting one served. -/
theorem State.Served.finished {s : State} {v : Conversion} {i : Slot} {c : Channel} (h : s.Served i) (r : Result)
    (hv : s.ce.conv = some v) (hne : i ≠ v.channel) : (s.finished v.channel c r).Served i := by
  have converting : s.converting i ≠ true := by simp [State.converting, hv, Ne.symm hne]
  exact h.congr id (fun hc => absurd hc converting) (by rw [State.channel_tableWith_ne (s := s) rfl hne])

/-- A one-shot asked for keeps every served channel served. -/
theorem State.Served.measured {s : State} {i j : Slot} {c : Channel} (h : s.Served j) (wait : Bool) :
    (s.measured i c wait).Served j := by
  by_cases e : j = i
  · subst e
    exact s.measured_served j c wait
  · refine h.congr (fun hq => ?_) id (by rw [State.channel_tableWith_ne (s := s) rfl e])
    unfold State.measured State.queued State.queueOf
    dsimp only
    split
    · exact hq
    · simpa [State.queued, e, List.mem_erase_of_ne e] using hq

/-- A join at the tail keeps every entry. -/
theorem State.queued_join {s t : State} {i j : Slot}
    (queue : t.ms.queue = if s.queued i = true ∨ s.converting i = true then s.ms.queue else s.ms.queue ++ [i])
    (h : s.queued j = true) : t.queued j = true := by
  unfold State.queued
  rw [queue]
  split
  · exact h
  · simp only [State.queued, List.contains_eq_mem, decide_eq_true_eq] at h
    simp [h]

/-- Every move keeps the law of the waiting request, with the port's law. -/
theorem WaitLaw.move {s t : State} (hp : PortLaw s) (h : WaitLaw s) (hm : Move s t) : WaitLaw t := by
  cases hm with
  | own | attention | frame | blink | hold | clock | pause | detach | bind | rewrite | unbind | unqueue | draw =>
    exact h.keep fun i hi => ⟨hi, id⟩
  | dirty => rw [State.markDirty_eq]; exact h.keep fun i hi => ⟨hi, id⟩
  | line _ waiting => exact h.keep fun i hi => ⟨waiting.symm.trans hi, id⟩
  | initialised _ _ _ waiting => exact h.keep fun i hi => ⟨waiting.symm.trans hi, id⟩
  | answer ha => exact .idle ha.waiting
  | ends he => exact .idle he.waiting
  | glassEnds he => exact .idle he.waiting
  | wait hw _ served =>
    intro i hi
    have hw' := hw.waiting.symm.trans hi
    exact served i (Option.some.inj hw')
  | glassWaits hw =>
    intro i hi
    have hw' := hw.waiting.symm.trans hi
    cases hw'
  | convert hv go =>
    exact h.keep fun i hi => ⟨hi, fun hs => hs.congr id (by simp [State.converting, hv, go.channel]) rfl⟩
  | complete hv hc hw =>
    refine WaitLaw.pick (h.keep fun i hi => ⟨hi, fun hs => hs.finished _ hv fun e => hw ?_⟩)
    rw [← e]
    exact hi
  | stop hv hc =>
    rename_i v
    refine WaitLaw.pick (h.keep fun i hi => ⟨hi, fun hs => ?_⟩)
    refine hs.congr id (fun hconv => ?_) rfl
    have e : v.channel = i := by simpa [State.converting, hv] using hconv
    obtain ⟨-, c, hc', -⟩ := hs
    rw [e] at hc
    rw [hc] at hc'
    cases hc'
  | pick => exact h.pick
  | define hq free =>
    refine h.keep fun i hi => ⟨hi, fun hs => hs.congr id id ?_⟩
    obtain ⟨-, c, hc, -⟩ := hs
    rw [(s.enterChannel_touches _ _).1.channel i fun e => by rw [e, free] at hc; cases hc]
  | modify ht => exact WaitLaw.pick (.idle (ht.waiting hp))
  | retire ht => exact WaitLaw.pick (.idle (ht.waiting hp))
  | suspend ht => exact WaitLaw.pick (.idle (ht.waiting hp))
  | clear ht => exact .idle (ht.waiting hp)
  | withdraw _ hw =>
    obtain ⟨ct, q, e, -⟩ := s.withdrawn_frame _ _
    rw [e]
    exact WaitLaw.pick (.idle hw)
  | start hc =>
    refine WaitLaw.pick (h.keep fun i hi => ⟨hi, fun hs => hs.congr (State.queued_join rfl) id ?_⟩)
    exact State.channel_map_tableWith (fun c => (c.sched.oneShot, c.sched.notice)) (s := s) rfl hc (by rfl) i
  | expire hc =>
    refine WaitLaw.pick (h.keep fun i hi => ⟨hi, fun hs => hs.congr (State.queued_join rfl) id ?_⟩)
    exact State.channel_map_tableWith (fun c => (c.sched.oneShot, c.sched.notice)) (s := s) rfl hc (by rfl) i
  | measure wait hc => exact WaitLaw.pick (h.keep fun i hi => ⟨hi, fun hs => hs.measured wait⟩)
  | resume => exact WaitLaw.pick (h.keep fun i hi => ⟨hi, id⟩)
  | countdown hc =>
    refine h.keep fun i hi => ⟨hi, fun hs => hs.congr id id ?_⟩
    exact State.channel_map_tableWith (fun c => (c.sched.oneShot, c.sched.notice)) (s := s) rfl hc (by rfl) i
  | record hc _ _ sched =>
    refine h.keep fun i hi => ⟨hi, fun hs => hs.congr id id ?_⟩
    exact State.channel_map_tableWith (fun c => (c.sched.oneShot, c.sched.notice)) (s := s) rfl hc (by rw [sched]) i
  | apply =>
    cases hg : s.gs.pendingSettings with
    | none => rw [State.applySettings_none hg]; exact h
    | some g =>
      rw [State.applySettings_some hg]
      refine h.keep fun i hi => ⟨?_, id⟩
      dsimp only at hi
      split at hi
      · cases hi
      · exact hi
  | reset => exact .idle rfl

/-- Every move keeps the laws of the port, the due queue and the waiting request together. -/
theorem WaitLaws.move {s t : State} (h : WaitLaws s) (hm : Move s t) : WaitLaws t := by
  obtain ⟨hp, hq, hw⟩ := h
  exact ⟨hp.move hm, hq.move hm, hw.move hp hm⟩

/-- Settles O60: every step is a chain of moves, and both groups of laws hold behind each. -/
theorem stepKeepsPairAndWaitLaws : Obligations.StepKeepsPairAndWaitLaws :=
  ⟨step_keeps fun _ _ => PairLaw.move, step_keeps fun _ _ => WaitLaws.move⟩

end Sys2Proof.Machine

/-! SUPPORT. O1 to O12: frames, steps, the host port, the resets and RESTART. -/

namespace Sys2Proof

/-! ## Frames (R163, R166, R175) -/

/-- A frame of good form spells its code and payload, whatever follows it (R166). -/
theorem transactionOf_frameOf (code : Byte) (p extra : List Byte) (h : p.length ≤ 61) :
    transactionOf (frameOf code p ++ extra) = (requestOf code p).getD (.unknownCommand code p) := by
  have good := judgeFrame_good code p extra h
  simp only [frameOf, List.cons_append] at good ⊢
  simp only [transactionOf, if_true, commandOf, good]

/-- A command with a code is the one its code and payload name (R167, R175). -/
theorem requestOf_codeOf {c : Instr} {code : Byte} {p : List Byte} (hc : codeOf c = some (code, p))
    (hw : wellFormed c = true) : (requestOf code p).getD (.unknownCommand code p) = c ∧ p.length ≤ 61 := by
  cases c with
  | unknownCommand k q =>
    cases hc
    simp only [wellFormed, maxPayload, Bool.and_eq_true, Option.isNone_iff_eq_none] at hw
    exact ⟨by rw [hw.1]; rfl, of_decide_eq_true hw.2⟩
  | frameError | commandDropped | fetch | cancel | powerOnReset | rstnAsserted | resetRelease | initialisationEnd
  | restartEnd | baseTick | intervalExpiry | staleLimitExpiry | holdExpiry | blinkToggle | frameEnd | pick | sensorEdge
  | gateExpiry | edgeTimerExpiry | counterOverflow | render | fastClockPeriod => cases hc
  | _ =>
    cases hc
    exact ⟨rfl, of_decide_eq_true hw⟩

/-- The transaction of a command with a code is its COMMAND frame. -/
theorem transactionFor_codeOf {c : Instr} {code : Byte} {p : List Byte} (hc : codeOf c = some (code, p)) :
    transactionFor c = some (frameOf code p) := by
  cases c with
  | frameError | commandDropped | fetch | cancel | powerOnReset | rstnAsserted | resetRelease | initialisationEnd
  | restartEnd | baseTick | intervalExpiry | staleLimitExpiry | holdExpiry | blinkToggle | frameEnd | pick | sensorEdge
  | gateExpiry | edgeTimerExpiry | counterOverflow | render | fastClockPeriod => cases hc
  | _ => cases hc; rfl

/-- Settles O1: a command with a code by its frame, and each other transaction by its first byte. -/
theorem frameRoundTrip : Obligations.FrameRoundTrip := by
  refine ⟨fun c bytes extra hw hc ht => ?_, fun b hb => ?_, fun part bytes ht => ?_, rfl, fun b rest h1 h2 h3 => ?_⟩
  · rcases hc with hc | rfl
    · obtain ⟨⟨code, p⟩, hc⟩ := Option.isSome_iff_exists.1 hc
      obtain ⟨he, hlen⟩ := requestOf_codeOf hc hw
      rw [transactionFor_codeOf hc] at ht
      cases ht
      rw [transactionOf_frameOf code p extra hlen, he]
    · cases ht; rfl
  · have hb : judgeFrame b = none := Option.isNone_iff_eq_none.1 hb
    simp only [transactionOf, if_true, commandOf, hb]
  · cases part with
    | falls => cases ht
    | clocked n => cases ht
    | poll => cases ht; rfl
    | reads n =>
      cases ht
      have hlen : (List.replicate n (0x00#8 : Byte)).length = n := List.length_replicate
      change Instr.fetch (.reads (List.replicate n 0x00#8).length) = _
      rw [hlen]
  · simp only [transactionOf, if_neg h1, if_neg h2, if_neg h3]

/-- Settles O2: the sample transactions, evaluated. -/
theorem sampleTransactions : Obligations.SampleTransactions := by
  refine ⟨by decide +kernel, by decide +kernel, by decide +kernel, by decide, by decide, ?_, by decide, by decide, by decide,
    by decide, by decide +kernel⟩
  exact judgeFrame_good 0x01#8 (List.replicate 61 0#8) [] (by decide)

end Sys2Proof

namespace Sys2Proof.Machine

/-! ## Steps -/

/-- Settles O3: by the definition of a step. -/
theorem stepTakesFront : Obligations.StepTakesFront := by
  intro c rest s h
  unfold step
  rw [h]
  rfl

theorem mem_dueIf {b : Bool} {c e : Instr} : c ∈ dueIf b e ↔ b = true ∧ c = e := by
  cases b <;> simp [dueIf]

/-- The events due now, each with its condition. -/
theorem State.mem_dueEvents {s : State} {c : Instr} : c ∈ s.dueEvents ↔
    ((s.ce.conv.any fun v => v.countsEdges && v.gateTimer = some 0) = true ∧ c = .gateExpiry) ∨
      ((s.ce.conv.any fun v => v.edgeTimer = 0) = true ∧ c = .edgeTimerExpiry) ∨
      ((s.hp.port = .init && s.csu.initCount = some 0) = true ∧ c = .initialisationEnd) ∨
      (decide (s.gs.frameTimer = 0) = true ∧ c = .frameEnd) ∨
      (decide (s.csu.divider = 0) = true ∧ c = .baseTick) ∨
      (s.picked.isSome = true ∧ c = .pick) ∨ ((!s.re.queue.isEmpty) = true ∧ c = .render) := by
  simp only [State.dueEvents, List.mem_flatten, List.mem_cons, List.not_mem_nil, or_false, exists_eq_or_imp, mem_dueIf,
    exists_eq_left]

theorem dueIf_sublist (b : Bool) (e : Instr) : (dueIf b e).Sublist [e] := by
  cases b
  · exact List.nil_sublist _
  · exact List.Sublist.refl _

/-- The due events keep the model's order. -/
theorem State.dueEvents_sublist (s : State) :
    s.dueEvents.Sublist [.gateExpiry, .edgeTimerExpiry, .initialisationEnd, .frameEnd, .baseTick, .pick, .render] :=
  (dueIf_sublist _ _).append ((dueIf_sublist _ _).append ((dueIf_sublist _ _).append ((dueIf_sublist _ _).append
    ((dueIf_sublist _ _).append ((dueIf_sublist _ _).append ((dueIf_sublist _ _).append (List.nil_sublist []))))))) 

/-- A pick is to make exactly with the CE IDLE and an eligible entry (R48). -/
theorem State.picked_isSome {s : State} : s.picked.isSome = true ↔ s.ce.conv = none ∧ ∃ i ∈ s.ms.queue, s.mayStart i := by
  unfold State.picked
  cases s.ce.conv with
  | some v => simp
  | none => simp [List.find?_isSome, State.eligible_iff]

/-- A WINDOW conversion in COUNTING counts edges (R28). -/
theorem Conversion.countsEdges_iff (v : Conversion) : v.countsEdges = true ↔ v.phase = .counting ∧ v.method = .window := by
  unfold Conversion.countsEdges
  simp

/-- One slow-clock period outside a reset, whole. -/
theorem State.slowPeriod_eq {s : State} (h : s.csu.held = false) : s.slowPeriod = { s with
    csu := { s.csu with divider := s.csu.divider - 1, initCount := s.csu.initCount.map fun n => n - 1 }
    gs := { s.gs with frameTimer := s.gs.frameTimer - 1 }
    ce := { s.ce with conv := s.ce.conv.map fun v =>
      { v with edgeTimer := v.edgeTimer - 1, gateTimer := v.gateTimer.map fun n => n - 1 } } } := by
  unfold State.slowPeriod
  rw [h]
  rfl

/-- A step with no command waiting is the part's own event or slow-clock period. -/
theorem step_idle {s : State} (h : s.pending = []) : step s = idle s := by
  unfold step
  rw [h]

/-- Settles O4: by the own event of the part, and the condition of each due event. -/
theorem stepOnEmptyQueue : Obligations.StepOnEmptyQueue := by
  intro s hp
  rw [step_idle hp]
  refine ⟨fun hh => ?_, fun hh c hc => ?_, fun hh hn => ?_, s.dueEvents_sublist, ?_, ?_, ?_, ?_, ?_, ?_, ?_⟩
  · simp only [idle, State.ownEvent, hh, if_true, State.slowPeriod]
  · simp only [idle, State.ownEvent, hh, Bool.false_eq_true, if_false, hc]
  · simp only [idle, State.ownEvent, hh, Bool.false_eq_true, if_false, hn, List.head?_nil, State.slowPeriod_eq hh]
  · simp [State.mem_dueEvents, Option.any_eq_true, Conversion.countsEdges_iff, and_assoc]
  · simp [State.mem_dueEvents, Option.any_eq_true]
  · simp [State.mem_dueEvents]
  · simp [State.mem_dueEvents]
  · simp [State.mem_dueEvents]
  · simp [State.mem_dueEvents, State.picked_isSome]
  · simp [State.mem_dueEvents]

/-! ## Frames at the port -/

/-- A request runs as its unit's request, its length judged by the table of R175. -/
theorem exec_request {c : Instr} (h : lengthMatches c = false) (s : State) :
    ∃ act, exec c s = .next (hostRequest false act s) := by
  cases c with
  | frameError | unknownCommand | commandDropped | fetch | cancel | powerOnReset | rstnAsserted | resetRelease
  | initialisationEnd | restartEnd | baseTick | intervalExpiry | staleLimitExpiry | holdExpiry | blinkToggle | frameEnd
  | pick | sensorEdge | gateExpiry | edgeTimerExpiry | counterOverflow | render | fastClockPeriod => cases h
  | _ => exact ⟨_, by rw [← h]; rfl⟩

/-- A command that comes in a COMMAND frame, in a state that does not take it, is a frame there (R165, R180). -/
theorem exec_frame {c : Instr} {s : State} (h : isFrame c = true) (hn : s.drops ∨ s.deaf = true) :
    ∃ act, exec c s = .next (commandFrame act s) := by
  cases c with
  | fetch | cancel | powerOnReset | rstnAsserted | resetRelease
  | initialisationEnd | restartEnd | baseTick | intervalExpiry | staleLimitExpiry | holdExpiry | blinkToggle | frameEnd
  | pick | sensorEdge | gateExpiry | edgeTimerExpiry | counterOverflow | render | fastClockPeriod =>
    simp [isFrame, codeOf] at h
  | frameError b =>
    have hb : (judgeFrame b).isNone = true := (Bool.and_eq_true _ _ ▸ h).1
    exact ⟨fun s => s.respond .badFrame [], by simp only [exec, execFrameError, hb, if_true]⟩
  | unknownCommand k p =>
    have hk : (requestOf k p).isNone = true := by
      simp only [isFrame, wellFormed, Bool.and_eq_true] at h
      exact h.1.1
    exact ⟨fun s => s.respond .unknownCommand [], by simp only [exec, execUnknownCommand, hk, if_true]⟩
  | commandDropped =>
    refine ⟨id, ?_⟩
    simp only [exec, execCommandDropped]
    rcases hn with ⟨-, hp | hp⟩ | hd
    · rw [hp]
    · rw [hp]
    · cases s.hp.port <;> simp only [hd, if_true]
  | _ => exact ⟨_, rfl⟩

/-- What the port does with a transaction of which nothing is judged. -/
theorem State.deaf_iff {s : State} : s.deaf = true ↔ s.csu.held = true ∨ s.hp.select = .dead := by
  simp [State.deaf]

/-- Settles O5: a frame, a poll, a FETCH and a CANCEL in the states that do not take them. -/
theorem framesNotTaken : Obligations.FramesNotTaken := by
  intro c s
  refine ⟨fun hc hd => ?_, fun hc hd => ?_⟩
  · obtain ⟨act, e⟩ := exec_frame hc (.inl hd)
    rw [e, commandFrame_dropped hd]
  · have hdeaf := State.deaf_iff.2 hd
    rcases hc with hc | rfl | rfl | ⟨n, rfl⟩
    · obtain ⟨act, e⟩ := exec_frame hc (.inr hdeaf)
      rw [e, commandFrame_deaf hd]
      rfl
    · simp only [exec, execCancel, hdeaf, if_true, State.shiftOut_deaf hd]
      rfl
    · simp only [exec, execFetch, State.shiftOut_deaf hd]
      rfl
    · simp only [exec, execFetch, State.shiftOut_deaf hd]
      rfl

/-- Settles O6: each refusal is the answer to a taken frame. -/
theorem formRefusals : Obligations.FormRefusals := by
  intro s ht
  refine ⟨fun b hb => ?_, fun code p hp => ?_, fun c hc => ?_⟩
  · simp only [exec, execFrameError, hb, Option.isNone_none, if_true, commandFrame_taken ht, State.entered_respond]
  · simp only [exec, execUnknownCommand, hp, Option.isNone_none, if_true, commandFrame_taken ht, State.entered_respond]
  · obtain ⟨act, e⟩ := exec_request hc s
    rw [e, hostRequest_badLength ht rfl]

/-! ## READ_STATUS -/

theorem vector_toList_eq {α : Type} {n : Nat} (v : Vector α n) : v.toList = (List.finRange n).map fun i => v[i] :=
  List.ext_getElem (by simp) (by simp)

/-- The live channels, counted slot by slot (R172). -/
theorem State.liveChannels_eq (s : State) :
    s.liveChannels = ((List.finRange 8).filter fun i => (s.channel i).isSome).length := by
  unfold State.liveChannels
  rw [vector_toList_eq, List.filter_map, List.length_map]
  rfl

/-- The live fields, counted slot by slot (R172). -/
theorem State.liveFields_eq (s : State) :
    s.liveFields = ((List.finRange 24).filter fun f => (s.field f).isSome).length := by
  unfold State.liveFields
  rw [vector_toList_eq, List.filter_map, List.length_map]
  rfl

theorem Engine.code_eq (e : Engine) : e.code = match e.conv with
    | none => 0#8
    | some v => if v.phase = .settling then 1#8 else 2#8 := by
  unfold Engine.code
  cases e.conv with
  | none => rfl
  | some v => cases hv : v.phase <;> simp [hv]

/-- The nine bytes of READ_STATUS as R172 lists them. -/
theorem State.statusReport_eq (s : State) : s.statusReport =
    [0x24#8, 1#8, BitVec.ofNat 8 ((List.finRange 8).filter fun i => (s.channel i).isSome).length,
     BitVec.ofNat 8 ((List.finRange 24).filter fun f => (s.field f).isSome).length,
     (if s.ms.mode = .paused then 1#8 else 0#8),
     (match s.ce.conv with
       | none => 0#8
       | some v => if v.phase = .settling then 1#8 else 2#8),
     (match s.ce.conv with
       | none => 0xFF#8
       | some v => chanByte v.channel s.ct.slots[v.channel].gen),
     BitVec.ofNat 8 ((if s.gs.settings.display then 1 else 0) + (if s.gs.hold.isSome then 2 else 0)
       + (if s.gs.settings.duty = .third then 4 else 0)),
     (if s.hp.powerOn then 1#8 else 0#8)] := by
  have display : s.gs.settings.display.toNat + s.gs.hold.isSome.toNat * 2 + (decide (s.gs.settings.duty = .third)).toNat * 4
      = (if s.gs.settings.display then 1 else 0) + (if s.gs.hold.isSome then 2 else 0)
        + (if s.gs.settings.duty = .third then 4 else 0) := by
    cases s.gs.settings.display <;> cases s.gs.hold.isSome <;> cases s.gs.settings.duty <;> rfl
  have flag : BitVec.ofNat 8 s.hp.powerOn.toNat = if s.hp.powerOn then (1#8 : Byte) else 0#8 := by
    cases s.hp.powerOn <;> rfl
  unfold State.statusReport State.convertingByte
  rw [State.liveChannels_eq, State.liveFields_eq, Engine.code_eq, display, flag]
  cases s.ms.mode <;> rfl

/-- Settles O7: the nine bytes, and the flag cleared behind the answer. -/
theorem readStatus : Obligations.ReadStatus := by
  intro s ht
  have taken : exec (.readStatus []) s = .next (doReadStatus s.entered) := congrArg _ (hostRequest_taken ht rfl)
  have report : s.entered.statusReport = s.statusReport := rfl
  rw [taken]
  unfold doReadStatus
  rw [State.entered_respond, report, State.statusReport_eq]
  rfl

/-! ## FETCH and CANCEL -/

/-- Each bit of the byte that is on SDO after `n` edges of the first byte (R161). -/
theorem firstBits_getMsbD (b : Byte) (n j : Nat) (hj : j < 8) :
    (firstBits b n).getMsbD j = if j < n then b.getMsbD j else true := by
  have ones : j - n < 8 → (0xFF#8 : Byte).getMsbD (j - n) = true := by
    generalize j - n = k
    revert k
    decide
  unfold firstBits
  rw [BitVec.getMsbD_or, BitVec.getMsbD_ushiftRight]
  by_cases hn : j < n
  · simp [hn]
  · simp [hn, hj, ones (by omega)]

/-- Settles O8: the falling edge, clock edges, polls and FETCH, each whole. -/
theorem fetchAndChipSelect : Obligations.FetchAndChipSelect := by
  intro s
  refine ⟨rfl, fun b n hh hb => ⟨fun hn => ?_, fun hn => ?_⟩, fun b n hh hb => ⟨firstBits b n, ?_, ?_⟩, fun n hn => ?_,
    fun b hb => ?_, fun hb => ?_, fun hj => ⟨?_, fun n => ⟨fun r hp hr => ?_, fun hp => ?_, fun hp => ?_⟩⟩⟩
  · simp only [exec, execFetch, State.clocked, hb, hh, hn, if_true]
  · simp only [exec, execFetch, State.clocked, hb, hh, if_true, if_neg (Nat.pos_iff_ne_zero.1 hn)]
    rfl
  · simp only [exec, execFetch, State.clocked, hb, hh, Bool.false_eq_true, if_false]
    rfl
  · exact fun j hj => firstBits_getMsbD b n j hj
  · simp only [exec, execFetch, State.clocked]
    cases hs : s.hp.select with
    | low b => exact absurd hs (hn b)
    | high => rfl
    | dead => rfl
  · simp only [State.shownStatus, hb]
  · simp only [State.shownStatus, hb]
  · simp only [exec, execFetch, State.shiftOut_judged hj]
  · have frame : s.fetchFrame = responseFrame r.code r.payload := by simp only [State.fetchFrame, hp, hr]
    simp only [exec, execFetch, State.shiftOut_judged hj, frame]
    rfl
  · have frame : s.fetchFrame = [1#8, 0x16#8, 0x77#8] := by
      simp only [State.fetchFrame, hp]
      decide +kernel
    simp only [exec, execFetch, State.shiftOut_judged hj, frame]
  · have frame : s.fetchFrame = [1#8, 0x17#8, 0x70#8] := by
      have notReady : responseFrame .notReady [] = [1#8, 0x17#8, 0x70#8] := by decide +kernel
      rw [← notReady]
      rcases hp with hp | hp <;> simp only [State.fetchFrame, hp]
    simp only [exec, execFetch, State.shiftOut_judged hj, frame]

/-- A judged CANCEL ends its transaction and then the waiting request (R170). -/
theorem exec_cancel_judged {s : State} (h : s.judges) :
    exec .cancel s = .next ({ s with hp := s.shifted s.shownStatus [] } : State).cancelWaiting := by
  simp only [exec, execCancel, State.deaf_eq h, Bool.false_eq_true, if_false, State.shiftOut_judged h]

/-- The end of a waiting MEASURE_NOW withdraws its one-shot, answers CANCELLED and makes the next pick (R59). -/
theorem State.cancelWaiting_measure {s : State} {i : Slot} {c : Channel} (hw : s.hp.waiting = some (.measureNow i))
    (hc : s.channel i = some c) :
    s.cancelWaiting = ({ s.withdrawn i c with hp := s.ended .cancelled [] } : State).pick := by
  simp only [State.cancelWaiting, hw]
  rw [State.cancelMeasure_eq hc, State.respond_eq]
  unfold State.ended
  rw [State.withdrawn_hp]

theorem State.cancelWaiting_glass {s : State} (hw : s.hp.waiting = some .setGlass) :
    s.cancelWaiting = { s with gs := { s.gs with pendingSettings := none }, hp := s.ended .cancelled [] } := by
  simp only [State.cancelWaiting, hw]
  rfl

theorem State.cancelWaiting_nothing {s : State} (hw : s.hp.waiting = none ∨ s.hp.waiting = some .restart) :
    s.cancelWaiting = s := by
  rcases hw with hw | hw <;> simp only [State.cancelWaiting, hw]

/-- A judged CANCEL of a waiting MEASURE_NOW, whole. -/
theorem exec_cancel_measure {s : State} {i : Slot} {c : Channel} (h : s.judges)
    (hw : s.hp.waiting = some (.measureNow i)) (hc : s.channel i = some c) :
    exec .cancel s = .next ({ s.withdrawn i c with hp := s.cancelled } : State).pick := by
  rw [exec_cancel_judged h, State.cancelWaiting_measure (s := { s with hp := s.shifted s.shownStatus [] }) hw hc, State.withdrawn_setHp]
  rfl

/-- Settles O9: the cases of what a CANCEL finds waiting. -/
theorem cancel : Obligations.Cancel := by
  intro s hj
  refine ⟨fun i c hw hc => ?_, fun hw => ?_, fun hw => ?_⟩
  · rw [exec_cancel_measure hj hw hc]
    unfold State.withdrawn
    refine ⟨fun hu => ?_, fun hu hv => ?_, fun hu hv ha => ?_, fun hu hv ha => ?_⟩
    · simp only [hu, if_true]
    · simp only [hu, hv, Bool.false_eq_true, if_true, if_false]
    · simp only [hu, hv, ha, Bool.false_eq_true, if_true, if_false]
    · simp only [hu, hv, ha, Bool.false_eq_true, if_false]
  · rw [exec_cancel_judged hj, State.cancelWaiting_glass (s := { s with hp := s.shifted s.shownStatus [] }) hw]
    rfl
  · rw [exec_cancel_judged hj, State.cancelWaiting_nothing (s := { s with hp := s.shifted s.shownStatus [] }) hw]

/-! ## Resets and RESTART -/

/-- Settles O10: every table of the reset state is filled alike. -/
theorem resetValues : Obligations.ResetValues := by
  have ct (i : Slot) : State.reset.ct.slots[i] = { gen := 0, occupant := none } ∧ State.reset.ct.tags[i] = none := by
    simp [State.reset, ChannelTable.powerOn]
  have pins (p : Pin) : State.reset.ct.pins[p] = none := by simp [State.reset, ChannelTable.powerOn]
  have ft (f : FieldIx) : State.reset.ft.slots[f] = { gen := 0, occupant := none } := by
    simp [State.reset, FieldTable.powerOn]
  have planes (a : SegAddr) : State.reset.ft.owners[a] = none ∧ State.reset.re.plane[a] = .off ∧
      State.reset.gs.shown[a] = .off := by
    simp [State.reset, FieldTable.powerOn, Renderer.initial, Scanner.powerOn, Plane.dark]
  have pairs (i : Slot) : State.reset.au.channels[i].any = false := by
    have e : State.reset.au.channels[i] = SlotPairs.empty := by simp [State.reset, Attention.powerOn]
    rw [e]
    rfl
  exact ⟨ct, pins, rfl, rfl, ft, planes, rfl, rfl, rfl, rfl, rfl, rfl, rfl, rfl, pairs, rfl, rfl, rfl, rfl, rfl, rfl,
    rfl, rfl⟩

/-- The CS line at a reset (R161). -/
theorem Select.reset_eq (x : Select) : x.reset = if x = .high then .high else .dead := by
  cases x <;> rfl

/-- Settles O11: the resets, the release and the end of the initialisation, each whole. -/
theorem resetsAndStartUp : Obligations.ResetsAndStartUp := by
  intro s
  have reset (r : RestartReason) : s.resetTo r = { State.reset with
      hp := { State.reset.hp with select := if s.hp.select = .high then .high else .dead, sdo := s.hp.sdo }
      csu := { State.reset.csu with held := true, reason := r, source := s.csu.source }
      pending := s.pending, freeIx := s.freeIx } := by
    unfold State.resetTo
    rw [Select.reset_eq]
    rfl
  refine ⟨congrArg _ (reset .powerOn), fun h => ?_, fun hh hr => ?_, fun xsel hh => ?_, fun hh hp => ?_⟩
  · have hn : ¬(s.csu.held = true ∧ s.csu.reason = .powerOn) := by
      rintro ⟨h1, h2⟩
      rcases h with h | h
      · rw [h1] at h; cases h
      · exact h h2
    simp only [exec, execRstnAsserted, if_neg hn, reset]
  · simp only [exec, execRstnAsserted, if_pos (And.intro hh hr)]
    rfl
  · simp only [exec, execResetRelease, State.release, hh, if_true]
    rfl
  · have flag : (s.hp.powerOn || decide (s.csu.reason = .powerOn)) =
        if s.csu.reason = .powerOn then true else s.hp.powerOn := by
      split <;> simp_all
    simp only [exec, execInitialisationEnd, State.initEnd, hh, hp, and_self, if_true, flag]
    rfl

/-- Settles O12: the whole of a RESTART that is taken. -/
theorem restart : Obligations.Restart := by
  intro s ht
  have taken : exec (.restart []) s = .next (doRestart s.entered) := congrArg _ (hostRequest_taken ht rfl)
  rw [taken]
  rfl

end Sys2Proof.Machine

/-! SUPPORT. O13 and O14: the base tick and the rows of its expiries. -/

namespace Sys2Proof.Machine

/-! ## What each owner's tick keeps -/

/-- A part of the records that no scheduling part touches is as before an interval's tick. -/
theorem State.tickInterval_map {α : Type} (g : Channel → α) (hg : ∀ c x, g { c with sched := x } = g c) (s : State)
    (i j : Slot) : ((s.tickInterval i).channel j).map g = (s.channel j).map g := by
  unfold State.tickInterval
  split
  · rfl
  · next c hc =>
    split
    · split
      · rfl
      · split
        · rw [State.expireInterval_eq, State.pick_channel_map g fun c => hg c _]
          exact State.channel_map_tableWith g (s := s) rfl hc (hg c _) j
        · exact State.channel_map_tableWith g (s := s) rfl hc (hg c _) j
    · rfl

/-- The parts of the state that no base tick touches (R178). -/
def State.untouched (s : State) :=
  (s.ms.mode, s.ft, s.re.plane, s.re.changed, s.gs.shown, s.gs.settings, s.gs.frameTimer, s.gs.drive, s.au.mask,
    s.pending)

theorem State.tick_untouched (s : State) (o : TickOwner) : (s.tick o).untouched = s.untouched := by
  cases o with
  | interval i => obtain ⟨_, _, _, _, e⟩ := s.tickInterval_frame i; rw [State.tick, e]; rfl
  | age i => obtain ⟨_, _, _, e⟩ := s.tickAge_frame i; rw [State.tick, e]; rfl
  | blink rate => rw [State.tick, State.tickBlink_frame]; rfl
  | hold => obtain ⟨_, _, e⟩ := s.tickHold_frame; rw [State.tick, e]; rfl
  | restart => rw [State.tick, State.tickRestart_eq]; split <;> rfl

theorem State.ticks_untouched (l : List TickOwner) (s : State) : (l.foldl State.tick s).untouched = s.untouched := by
  induction l generalizing s with
  | nil => rfl
  | cons o rest ih => rw [List.foldl_cons, ih, s.tick_untouched]

/-- The records but for results and ref-tried marks change at a channel's own interval timer alone. -/
theorem State.tick_frozen (i : Slot) (s : State) (o : TickOwner) (ho : o ≠ .interval i) :
    ((s.tick o).channel i).map Channel.frozen = (s.channel i).map Channel.frozen := by
  cases o with
  | interval j => exact Channel.frozen_of_unmarked (State.tickInterval_other fun e => ho (by rw [e]))
  | age j =>
    rw [State.tick, State.tickAge_channel]
    split
    · next e => rw [e, Option.map_map]; rfl
    · rfl
  | blink rate => rw [State.tick, State.tickBlink_frame]; rfl
  | hold => obtain ⟨_, _, e⟩ := s.tickHold_frame; rw [State.tick, e]; rfl
  | restart => rw [State.tick, State.tickRestart_eq]; split <;> rfl

/-- A channel's result and stale limit change at its own age alone. -/
theorem State.tick_result (i : Slot) (s : State) (o : TickOwner) (ho : o ≠ .age i) :
    ((s.tick o).channel i).map (fun c => (c.result, c.staleLimit)) =
      (s.channel i).map fun c => (c.result, c.staleLimit) := by
  cases o with
  | interval j => exact State.tickInterval_map _ (fun _ _ => rfl) s j i
  | age j => rw [State.tick, State.tickAge_channel, if_neg fun e => ho (by rw [e])]
  | blink rate => rw [State.tick, State.tickBlink_frame]; rfl
  | hold => obtain ⟨_, _, e⟩ := s.tickHold_frame; rw [State.tick, e]; rfl
  | restart => rw [State.tick, State.tickRestart_eq]; split <;> rfl

theorem State.tick_slow (s : State) (o : TickOwner) (ho : o ≠ .blink .slow) : (s.tick o).gs.slow = s.gs.slow := by
  cases o with
  | interval i => obtain ⟨_, _, _, _, e⟩ := s.tickInterval_frame i; rw [State.tick, e]
  | age i => obtain ⟨_, _, _, e⟩ := s.tickAge_frame i; rw [State.tick, e]
  | blink rate => rw [State.tick, State.tickBlink_frame]; exact if_neg fun e => ho (by rw [e])
  | hold => obtain ⟨_, _, e⟩ := s.tickHold_frame; rw [State.tick, e]
  | restart => rw [State.tick, State.tickRestart_eq]; split <;> rfl

theorem State.tick_fast (s : State) (o : TickOwner) (ho : o ≠ .blink .fast) : (s.tick o).gs.fast = s.gs.fast := by
  cases o with
  | interval i => obtain ⟨_, _, _, _, e⟩ := s.tickInterval_frame i; rw [State.tick, e]
  | age i => obtain ⟨_, _, _, e⟩ := s.tickAge_frame i; rw [State.tick, e]
  | blink rate => rw [State.tick, State.tickBlink_frame]; exact if_neg fun e => ho (by rw [e])
  | hold => obtain ⟨_, _, e⟩ := s.tickHold_frame; rw [State.tick, e]
  | restart => rw [State.tick, State.tickRestart_eq]; split <;> rfl

theorem State.tick_hold (s : State) (o : TickOwner) (ho : o ≠ .hold) :
    ((s.tick o).gs.hold, (s.tick o).au.holdExpired) = (s.gs.hold, s.au.holdExpired) := by
  cases o with
  | interval i => obtain ⟨_, _, _, _, e⟩ := s.tickInterval_frame i; rw [State.tick, e]
  | age i => obtain ⟨_, _, _, e⟩ := s.tickAge_frame i; rw [State.tick, e]
  | blink rate => rw [State.tick, State.tickBlink_frame]
  | hold => exact absurd rfl ho
  | restart => rw [State.tick, State.tickRestart_eq]; split <;> rfl

theorem State.tick_restart (s : State) (o : TickOwner) (ho : o ≠ .restart) :
    ((s.tick o).hp, (s.tick o).au.restarted) = (s.hp, s.au.restarted) := by
  cases o with
  | interval i => obtain ⟨_, _, _, _, e⟩ := s.tickInterval_frame i; rw [State.tick, e]
  | age i => obtain ⟨_, _, _, e⟩ := s.tickAge_frame i; rw [State.tick, e]
  | blink rate => rw [State.tick, State.tickBlink_frame]
  | hold => obtain ⟨_, _, e⟩ := s.tickHold_frame; rw [State.tick, e]
  | restart => exact absurd rfl ho

/-! ## What each owner's tick does -/

/-- What an interval's tick makes of its channel's record, but for the result and the ref-tried mark (R43, R44). -/
def Channel.Ticked (mode : ScheduleMode) (c d : Channel) : Prop :=
  d.state = c.state ∧ d.defn = c.defn ∧ d.curve = c.curve ∧ d.limits = c.limits ∧ d.staleLimit = c.staleLimit ∧
    d.sched.oneShot = c.sched.oneShot ∧ d.sched.notice = c.sched.notice ∧ d.sched.unwaited = c.sched.unwaited ∧
    (c.state = .active → mode = .run → ∀ n, c.sched.countdown = some n →
      (n ≤ 1 → d.sched.countdown = some c.defn.interval) ∧ (1 < n → d.sched.countdown = some (n - 1))) ∧
    (c.state ≠ .active ∨ mode = .paused → d.sched.countdown = c.sched.countdown ∧ d.sched.late = c.sched.late)

/-- Only the frozen records matter to it. -/
theorem Channel.Ticked.congr {mode : ScheduleMode} {c c' d d' : Channel} (h : c.Ticked mode d)
    (hc : c.frozen = c'.frozen) (hd : d.frozen = d'.frozen) : c'.Ticked mode d' := by
  have frozen : c.frozen.Ticked mode d.frozen := h
  rw [hc, hd] at frozen
  exact frozen

theorem State.tickInterval_ticked {s : State} {i : Slot} {c : Channel} (hc : s.channel i = some c) :
    ∃ d, (s.tickInterval i).channel i = some d ∧ c.Ticked s.ms.mode d := by
  unfold State.tickInterval
  rw [hc]
  dsimp only
  split
  · next hrun =>
    obtain ⟨ha, hm⟩ := hrun
    have active : ¬(c.state ≠ .active ∨ s.ms.mode = .paused) := by simp [ha, hm]
    cases hn : c.sched.countdown with
    | none =>
      refine ⟨c, hc, rfl, rfl, rfl, rfl, rfl, rfl, rfl, rfl, fun _ _ n h => ?_, fun h => absurd h active⟩
      rw [hn] at h
      cases h
    | some n =>
      dsimp only
      split
      · next h1 =>
        have e := s.expireInterval_unmarked i c
        obtain ⟨d, hd, e⟩ := Option.map_eq_some_iff.1 e
        refine ⟨d, hd, Channel.Ticked.congr (c := c) (d := { c with sched := { c.sched with
          countdown := some c.defn.interval, late := c.sched.late || (s.queued i || s.converting i) } })
          ⟨rfl, rfl, rfl, rfl, rfl, rfl, rfl, rfl, fun _ _ m hm => ?_, fun h => absurd h active⟩ rfl ?_⟩
        · rw [hn] at hm
          cases hm
          exact ⟨fun _ => rfl, fun h => absurd h1 (Nat.not_le.2 h)⟩
        · exact congrArg (fun c : Channel => { c with result := Result.cleared 0 }) e.symm
      · next h1 =>
        refine ⟨{ c with sched := { c.sched with countdown := some (n - 1) } },
          by rw [State.putChannel_channel, if_pos rfl], rfl, rfl, rfl, rfl, rfl, rfl, rfl, rfl,
          fun _ _ m hm => ?_, fun h => absurd h active⟩
        rw [hn] at hm
        cases hm
        exact ⟨fun h => absurd h h1, fun _ => rfl⟩
  · next hstop =>
    exact ⟨c, hc, rfl, rfl, rfl, rfl, rfl, rfl, rfl, rfl, fun ha hm => absurd ⟨ha, hm⟩ hstop, fun _ => ⟨rfl, rfl⟩⟩

/-- An age one base tick on (R81). -/
theorem olderBy1_eq (a : Nat) : olderBy1 a = if a < 65535 then a + 1 else 65535 := by
  unfold olderBy1
  split <;> omega

/-- The coming tick makes a result STALE exactly when it is FRESH and its age reaches its nonzero stale limit (R82). -/
theorem Channel.staleNext_iff (c : Channel) : c.staleNext = true ↔
    c.result.freshness = some .fresh ∧ ∃ a, c.result.age = some a ∧ c.staleLimit ≠ 0 ∧ c.staleLimit ≤ olderBy1 a := by
  simp [Channel.staleNext, Option.any_eq_true, freshnessOf_stale_iff]

/-- What an age's tick makes of a result (R81, R83). -/
theorem State.tickAge_result {s : State} {i : Slot} {c : Channel} (hc : s.channel i = some c) :
    ((s.tickAge i).channel i).map Channel.result = some { c.result with
      age := c.result.age.map olderBy1
      freshness := if c.staleNext then some .stale else c.result.freshness } := by
  rw [State.tickAge_channel, if_pos rfl, hc]
  rfl

/-! ## All owners -/

/-- The owners that the base tick reaches. -/
theorem State.baseTick_eq {s : State} (h : s.csu.held = false) : ∃ l : List TickOwner, l.Nodup ∧
    (∀ o, o ∈ l ↔ o ∉ s.csu.early) ∧
    s.baseTick = { l.foldl State.tick s with
      csu := { (l.foldl State.tick s).csu with divider := 512, early := [] } } := by
  refine ⟨TickOwner.all.filter fun o => !s.csu.early.contains o, TickOwner.all_nodup.filter _, fun o => ?_, ?_⟩
  · simp [List.mem_filter, TickOwner.mem_all]
  · unfold State.baseTick
    rw [h]
    rfl

/-- A channel's record after the ticks of a list of owners without repeats. -/
theorem State.ticks_channel {s : State} {i : Slot} {c : Channel} (hc : s.channel i = some c) {l : List TickOwner}
    (hl : l.Nodup) : ∃ d, (l.foldl State.tick s).channel i = some d ∧
      (.interval i ∉ l → d.frozen = c.frozen) ∧ (.interval i ∈ l → c.Ticked s.ms.mode d) ∧
      (.age i ∉ l → d.result = c.result) ∧
      (.age i ∈ l → d.result = { c.result with
        age := c.result.age.map olderBy1
        freshness := if c.staleNext then some .stale else c.result.freshness }) := by
  obtain ⟨keepF, doF⟩ := State.tick_fold (fun s => ((s.channel i).map Channel.frozen, s.ms.mode)) (.interval i)
    (fun u p hp => Prod.ext (u.tick_frozen i p hp) (congrArg Prod.fst (u.tick_untouched p))) l hl s
  obtain ⟨keepR, doR⟩ := State.tick_fold (fun s => (s.channel i).map fun c => (c.result, c.staleLimit)) (.age i)
    (fun u p hp => u.tick_result i p hp) l hl s
  have back {α : Type} {g : Channel → α} {u : State} {x : Option Channel} (h : (u.channel i).map g = x.map g) {y : Channel}
      (hx : x = some y) : ∃ d, u.channel i = some d ∧ g d = g y := by
    rw [hx] at h
    exact Option.map_eq_some_iff.1 h
  have live : ∃ d, (l.foldl State.tick s).channel i = some d := by
    by_cases hm : .age i ∈ l
    · obtain ⟨u, hu, e⟩ := doR hm
      obtain ⟨d, hd, -⟩ := back hu hc
      have r := State.tickAge_result hd
      obtain ⟨d', hd', -⟩ := Option.map_eq_some_iff.1 r
      obtain ⟨d'', hd'', -⟩ := back e hd'
      exact ⟨d'', hd''⟩
    · obtain ⟨d, hd, -⟩ := back (keepR hm) hc
      exact ⟨d, hd⟩
  obtain ⟨d, hd⟩ := live
  refine ⟨d, hd, fun hn => ?_, fun hm => ?_, fun hn => ?_, fun hm => ?_⟩
  · have e := congrArg Prod.fst (keepF hn)
    obtain ⟨d', hd', e⟩ := back e hc
    rw [hd] at hd'
    cases hd'
    exact e
  · obtain ⟨u, hu, e⟩ := doF hm
    obtain ⟨c', hc', ec⟩ := back (congrArg Prod.fst hu) hc
    have mode : u.ms.mode = s.ms.mode := congrArg Prod.snd hu
    obtain ⟨d', hd', ticked⟩ := State.tickInterval_ticked hc'
    obtain ⟨d'', hd'', ed⟩ := back (congrArg Prod.fst e) hd'
    rw [hd] at hd''
    cases hd''
    rw [mode] at ticked
    exact ticked.congr ec ed.symm
  · obtain ⟨d', hd', e⟩ := back (keepR hn) hc
    rw [hd] at hd'
    cases hd'
    exact congrArg Prod.fst e
  · obtain ⟨u, hu, e⟩ := doR hm
    obtain ⟨c', hc', ec⟩ := back hu hc
    obtain ⟨d', hd', r⟩ := Option.map_eq_some_iff.1 (State.tickAge_result hc')
    obtain ⟨d'', hd'', ed⟩ := back e hd'
    rw [hd] at hd''
    cases hd''
    simp only [Prod.mk.injEq] at ec ed
    obtain ⟨er, es⟩ := ec
    have stale : c'.staleNext = c.staleNext := by unfold Channel.staleNext; rw [er, es]
    rw [ed.1, r, er, stale]

/-- What a base tick leaves of a channel, by the owners that have taken it already. -/
theorem State.ticks_none {s : State} {i : Slot} (hc : s.channel i = none) (l : List TickOwner) :
    (l.foldl State.tick s).channel i = none := by
  induction l generalizing s with
  | nil => exact hc
  | cons o rest ih =>
    refine ih ?_
    by_cases ho : o = .age i
    · subst ho
      rw [State.tick, State.tickAge_channel, if_pos rfl, hc]
      rfl
    · have e := s.tick_result i o ho
      rw [hc] at e
      exact Option.map_eq_none_iff.1 e

theorem BlinkPhase.tick_eq (b : BlinkPhase) (n : Nat) : b.tick n =
    if b.count ≤ 1 then { lit := !b.lit, count := n } else { lit := b.lit, count := b.count - 1 } := rfl

/-- Settles O13: each owner's part of the state is as its own tick leaves it. -/
theorem baseTick : Obligations.BaseTick := by
  intro s hh
  obtain ⟨l, hl, hmem, e⟩ := State.baseTick_eq hh
  have reached {o : TickOwner} (h : o ∉ s.csu.early) : o ∈ l := (hmem o).2 h
  have skipped {o : TickOwner} (h : o ∈ s.csu.early) : o ∉ l := fun hm => (hmem o).1 hm h
  have kept := State.ticks_untouched l s
  simp only [State.untouched, Prod.mk.injEq] at kept
  obtain ⟨mode, ft, plane, changed, shown, settings, timer, drive, mask, pending⟩ := kept
  obtain ⟨-, doSlow⟩ := State.tick_fold (fun s => s.gs.slow) (.blink .slow) State.tick_slow l hl s
  obtain ⟨-, doFast⟩ := State.tick_fold (fun s => s.gs.fast) (.blink .fast) State.tick_fast l hl s
  obtain ⟨-, doHold⟩ := State.tick_fold (fun s => (s.gs.hold, s.au.holdExpired)) .hold State.tick_hold l hl s
  obtain ⟨keepRestart, doRestart⟩ := State.tick_fold (fun s => (s.hp, s.au.restarted)) .restart State.tick_restart l hl s
  refine ⟨_, congrArg Host.Outcome.next e, fun i hc => State.ticks_none hc l, fun i c hc => ?_, fun ho => ?_, fun ho => ?_,
    fun ho => ⟨fun hn => ?_, fun n hn => ⟨fun h1 => ?_, fun h1 => ?_⟩⟩, fun ho hw => ?_, fun hw => ?_, rfl, rfl, mode, ft,
    plane, changed, shown, settings, timer, drive, mask, pending⟩
  · obtain ⟨d, hd, frozen, ticked, same, older⟩ := State.ticks_channel hc hl
    have fields : c.Ticked s.ms.mode d ∨ (.interval i ∈ s.csu.early ∧ d.frozen = c.frozen) := by
      by_cases hi : .interval i ∈ s.csu.early
      · exact .inr ⟨hi, frozen (skipped hi)⟩
      · exact .inl (ticked (reached hi))
    have result : .age i ∉ s.csu.early → ∃ f, d.result = { c.result with
          age := c.result.age.map fun a => if a < 65535 then a + 1 else 65535
          freshness := f } ∧
        (∀ a, c.result.freshness = some .fresh → c.result.age = some a → c.staleLimit ≠ 0 →
          c.staleLimit ≤ (if a < 65535 then a + 1 else 65535) → f = some .stale) ∧
        ((c.result.freshness ≠ some .fresh ∨ c.staleLimit = 0 ∨ ∀ a, c.result.age = some a →
          (if a < 65535 then a + 1 else 65535) < c.staleLimit) → f = c.result.freshness) := by
      intro ho
      refine ⟨_, by rw [← funext olderBy1_eq]; exact older (reached ho), fun a hf ha h0 hle => ?_, fun hn => ?_⟩
      · rw [← olderBy1_eq a] at hle
        exact if_pos (c.staleNext_iff.2 ⟨hf, a, ha, h0, hle⟩)
      · refine if_neg fun hs => ?_
        obtain ⟨hf, a, ha, h0, hle⟩ := c.staleNext_iff.1 hs
        rcases hn with hn | hn | hn
        · exact hn hf
        · exact h0 hn
        · have := hn a ha
          rw [← olderBy1_eq a] at this
          omega
    have unaged (ho : .age i ∈ s.csu.early) : d.result = c.result := same (skipped ho)
    refine ⟨d, hd, ?_⟩
    rcases fields with ticked | ⟨hi, frozen⟩
    · obtain ⟨h1, h2, h3, h4, h5, h6, h7, h8, running, stopped⟩ := ticked
      refine ⟨h1, h2, h3, h4, h5, h6, h7, h8, fun _ => running, fun h => ?_, unaged, result⟩
      rcases h with h | h
      · have e := frozen (skipped h)
        simp only [Channel.frozen, Channel.unmarked, Channel.mk.injEq, Schedule.mk.injEq] at e
        obtain ⟨-, -, -, -, -, -, hcount, -, -, -, hlate, -⟩ := e
        exact ⟨hcount, hlate⟩
      · exact stopped h
    · have e := frozen
      simp only [Channel.frozen, Channel.unmarked, Channel.mk.injEq, Schedule.mk.injEq] at e
      obtain ⟨h1, h2, h3, h4, h5, -, hcount, h6, h7, h8, hlate, -⟩ := e
      exact ⟨h1, h2, h3, h4, h5, h6, h7, h8, fun hn => absurd hi hn, fun _ => ⟨hcount, hlate⟩, unaged, result⟩
  · obtain ⟨u, hu, e⟩ := doSlow (reached ho)
    rw [State.tick, State.tickBlink_frame] at e
    exact e.trans (by dsimp only; rw [if_pos rfl, hu]; rfl)
  · obtain ⟨u, hu, e⟩ := doFast (reached ho)
    rw [State.tick, State.tickBlink_frame] at e
    exact e.trans (by dsimp only; rw [if_pos rfl, hu]; rfl)
  · obtain ⟨u, hu, e⟩ := doHold (reached ho)
    have hold : u.gs.hold = none := (congrArg Prod.fst hu).trans hn
    have tick : u.tick .hold = u := by simp only [State.tick, State.tickHold, hold]
    rw [tick] at e
    exact (congrArg Prod.fst e).trans hold
  · obtain ⟨u, hu, e⟩ := doHold (reached ho)
    have hold : u.gs.hold = some n := (congrArg Prod.fst hu).trans hn
    simp only [State.tick, State.tickHold, hold, if_pos h1] at e
    exact ⟨congrArg Prod.fst e, congrArg Prod.snd e⟩
  · obtain ⟨u, hu, e⟩ := doHold (reached ho)
    have hold : u.gs.hold = some n := (congrArg Prod.fst hu).trans hn
    simp only [State.tick, State.tickHold, hold, if_neg (Nat.not_le.2 h1)] at e
    exact congrArg Prod.fst e
  · obtain ⟨u, hu, e⟩ := doRestart (reached ho)
    have hp : u.hp = s.hp := congrArg Prod.fst hu
    rw [State.tick, State.tickRestart_eq, hp, if_pos hw] at e
    have ended : u.ended .ok [] = s.ended .ok [] := by unfold State.ended; rw [hp]
    exact ⟨(congrArg Prod.fst e).trans ended, congrArg Prod.snd e⟩
  · by_cases hm : .restart ∈ l
    · obtain ⟨u, hu, e⟩ := doRestart hm
      have hp : u.hp = s.hp := congrArg Prod.fst hu
      rw [State.tick, State.tickRestart_eq, hp, if_neg hw] at e
      have e := e.trans hu
      exact ⟨congrArg Prod.fst e, congrArg Prod.snd e⟩
    · have e := keepRestart hm
      exact ⟨congrArg Prod.fst e, congrArg Prod.snd e⟩

/-! ## The rows of the expiries -/

theorem State.expire_held {s : State} (h : s.csu.held = true) (o : TickOwner) : s.expire o = s := by
  simp only [State.expire, h, if_true]

theorem State.expire_taken {s : State} {o : TickOwner} (h : s.csu.held = false) (ho : o ∉ s.csu.early)
    (hx : s.expiresNext o = true) :
    s.expire o = { s.tick o with csu := { (s.tick o).csu with early := o :: (s.tick o).csu.early } } := by
  have hc : s.csu.early.contains o = false := by simpa using ho
  simp only [State.expire, h, hc, hx, Bool.false_eq_true, if_false, if_true]
  rfl

theorem State.expire_nothing {s : State} {o : TickOwner} (h : o ∈ s.csu.early ∨ s.expiresNext o = false) :
    s.expire o = s := by
  unfold State.expire
  split
  · rfl
  · split
    · rfl
    · next hc =>
      rcases h with h | h
      · exact absurd (by simpa using h) hc
      · rw [h]; rfl

/-- The rows that name an expiry are the coming tick at its owner. -/
theorem exec_row {c : Instr} {o : TickOwner} (h : (c, o) ∈
    [(Instr.holdExpiry, TickOwner.hold), (.restartEnd, .restart), (.blinkToggle .slow, .blink .slow),
      (.blinkToggle .fast, .blink .fast)] ++
    ((List.finRange 8).map fun i => (Instr.intervalExpiry i, TickOwner.interval i)) ++
    ((List.finRange 8).map fun i => (Instr.staleLimitExpiry i, TickOwner.age i))) (s : State) :
    exec c s = .next (s.expire o) := by
  simp only [List.mem_append, List.mem_map, List.mem_cons, List.not_mem_nil, or_false, Prod.mk.injEq] at h
  rcases h with ((⟨rfl, rfl⟩ | ⟨rfl, rfl⟩ | ⟨rfl, rfl⟩ | ⟨rfl, rfl⟩) | ⟨i, -, rfl, rfl⟩) | ⟨i, -, rfl, rfl⟩ <;> rfl

/-- The rows of the tick while a reset is held (R180). -/
theorem exec_tick_held {c : Instr} {s : State} (h : s.csu.held = true)
    (hc : c ∈ [.baseTick, .holdExpiry, .restartEnd, .blinkToggle .slow, .blinkToggle .fast] ++
      ((List.finRange 8).map Instr.intervalExpiry) ++ ((List.finRange 8).map Instr.staleLimitExpiry)) :
    exec c s = .next s := by
  have expire (o : TickOwner) : (.next (s.expire o) : Host.Outcome State Fault Refusal) = .next s := by
    rw [State.expire_held h]
  simp only [List.mem_append, List.mem_map, List.mem_cons, List.not_mem_nil, or_false] at hc
  rcases hc with ((rfl | rfl | rfl | rfl | rfl) | ⟨i, -, rfl⟩) | ⟨i, -, rfl⟩
  · simp only [exec, execBaseTick, State.baseTick, h, if_true]
  · exact expire _
  · exact expire _
  · exact expire _
  · exact expire _
  · exact expire _
  · exact expire _

/-- An interval expiry, up to the pick behind it (R43, R44). -/
theorem State.tickInterval_expires {s : State} {i : Slot} {c : Channel} {n : Nat} (hc : s.channel i = some c)
    (ha : c.state = .active) (hm : s.ms.mode = .run) (hn : c.sched.countdown = some n) (h1 : n ≤ 1) :
    s.tick (.interval i) = (s.reloaded i c).pick := by
  simp only [State.tick, State.tickInterval, hc, ha, hm, hn, h1, and_self, if_true]
  exact s.expireInterval_eq i c

/-- Settles O14: the owners one after another, and each row whole. -/
theorem tickOwners : Obligations.TickOwners := by
  refine ⟨fun c s hh hc => exec_tick_held hh hc, fun s hh => ⟨?_, fun i c n hc ha hm hn h1 ho => ⟨_, rfl, ?_, fun hq hv => ?_,
    fun hqv => ?_⟩, fun i c a hc hf ha hlt h0 hle ho => ⟨_, rfl, ?_, ?_⟩, fun h1 ho => ?_, fun h1 ho => ?_,
    fun n hn h1 ho => ?_, fun hw ho => ?_, fun c o hco hn => ?_⟩⟩
  · simp only [exec, execBaseTick, State.baseTick, hh, Bool.false_eq_true, if_false]
    rfl
  · refine congrArg _ (State.expire_taken hh ho ?_)
    simp [State.expiresNext, hc, ha, hm, hn, h1]
  · rw [State.tickInterval_expires hc ha hm hn h1]
    simp only [State.reloaded, hq, hv, Bool.or_false, Bool.false_eq_true, or_self, if_false]
  · rw [State.tickInterval_expires hc ha hm hn h1]
    have absorbed : (s.queued i || s.converting i) = true := by simpa using hqv
    simp only [State.reloaded, absorbed, if_pos hqv, Bool.or_true]
    rfl
  · refine congrArg _ (State.expire_taken hh ho ?_)
    have older : olderBy1 a = a + 1 := by unfold olderBy1; omega
    have stale := c.staleNext_iff.2 ⟨hf, a, ha, h0, by rw [older]; exact hle⟩
    simp [State.expiresNext, hc, stale]
  · have older : olderBy1 a = a + 1 := by unfold olderBy1; omega
    have stale := c.staleNext_iff.2 ⟨hf, a, ha, h0, by rw [older]; exact hle⟩
    rw [State.tick, State.tickAge_stale hc stale, ha, Option.map_some, older]
  · refine congrArg _ ((State.expire_taken hh ho (by simpa [State.expiresNext] using h1)).trans ?_)
    rw [State.tick, State.tickBlink_frame, BlinkPhase.tick_eq, if_pos h1]
    rfl
  · refine congrArg _ ((State.expire_taken hh ho (by simpa [State.expiresNext] using h1)).trans ?_)
    rw [State.tick, State.tickBlink_frame, BlinkPhase.tick_eq s.gs.fast, if_pos h1]
    rfl
  · refine congrArg _ ((State.expire_taken hh ho (by simpa [State.expiresNext, hn] using h1)).trans ?_)
    simp only [State.tick, State.tickHold, hn, if_pos h1]
    rfl
  · refine congrArg _ ((State.expire_taken hh ho (by simpa [State.expiresNext] using hw)).trans ?_)
    rw [State.tick, State.tickRestart_eq, if_pos hw]
  · rw [exec_row hco, State.expire_nothing hn]

end Sys2Proof.Machine

/-! SUPPORT. O16, O18, O19, O20, O27 and O28: the requests of the Channel Table and of the scheduler. -/

namespace Sys2Proof.Machine

/-! ## DEFINE_CHANNEL -/

/-- Settles O16: the checks pass, and the slot the search answers is the lowest FREE one. -/
theorem defineChannel : Obligations.DefineChannel := by
  intro p q s i ht hl hd hf htag hpin href
  have free : s.entered.freeSlot = some i := State.freeSlot_eq (s := s.entered) hf
  have check : s.entered.defineCheck q = none :=
    (State.defineCheck_eq_refCheck (s := s.entered) htag hpin).trans (State.refCheck_none (s := s.entered) href)
  rw [exec_defineChannel_taken ht hl]
  simp only [doDefine, hd, free, check]
  rfl

/-! ## MODIFY_CHANNEL: the checks of R11 in their order -/

/-- A reference to the channel that is modified fails the reference check with MISMATCH (R7). -/
theorem State.refCheck_self {s : State} {i : Slot} {q : DefReq} {r : RefReq} {c : Channel} (hr : q.ref = some r)
    (ha : s.accept r.slot r.gen = some c) (hi : r.slot = i) : s.refCheck (some i) q = some .mismatch := by
  simp only [State.refCheck, hr, ha]
  exact if_pos (.inl (by rw [hi]))

section ModifyCheck

variable {s : State} {i : Slot} {c : Channel} {q : DefReq}

theorem State.modifyCheck_active (ha : c.state = .active) : s.modifyCheck i c q = some .wrongState := if_pos ha

theorem State.modifyCheck_duplicateTag {j : Slot} (ha : c.state ≠ .active) (hj : s.tagSlot q.tag = some j)
    (hne : j ≠ i) : s.modifyCheck i c q = some .duplicateTag := by
  simp [State.modifyCheck, ha, hj, hne]

/-- The tag is no other channel's (R11, step 4). -/
theorem State.tagSlot_own (h : ∀ j : Slot, s.ct.tags[j] = some q.tag → j = i) :
    ((s.tagSlot q.tag).any fun j => j ≠ i) = false := by
  rw [Option.any_eq_false]
  intro j hj
  have : s.ct.tags[j] = some q.tag := by simpa using List.find?_some hj
  simp [h j this]

/-- The pin is no other channel's (R11, step 5). -/
theorem State.pinOwner_own (h : ∀ j, s.ct.pins[q.pin] = some j → j = i) :
    (s.ct.pins[q.pin].any fun j => j ≠ i) = false := by
  rw [Option.any_eq_false]
  intro j hj
  simp [h j hj]

theorem State.modifyCheck_pinTaken {j : Slot} (ha : c.state ≠ .active)
    (htag : ∀ j : Slot, s.ct.tags[j] = some q.tag → j = i) (hj : s.ct.pins[q.pin] = some j) (hne : j ≠ i) :
    s.modifyCheck i c q = some .pinTaken := by
  unfold State.modifyCheck
  rw [if_neg ha, if_neg (Bool.eq_false_iff.1 (State.tagSlot_own htag)), if_pos]
  rw [hj]
  simpa using hne

/-- With state, tag and pin in order, the reference check decides first (R11, step 6). -/
theorem State.modifyCheck_reference {code : ResultCode} (ha : c.state ≠ .active)
    (htag : ∀ j : Slot, s.ct.tags[j] = some q.tag → j = i) (hpin : ∀ j, s.ct.pins[q.pin] = some j → j = i)
    (hr : s.refCheck (some i) q = some code) : s.modifyCheck i c q = some code := by
  unfold State.modifyCheck
  rw [if_neg ha, if_neg (Bool.eq_false_iff.1 (State.tagSlot_own htag)),
    if_neg (Bool.eq_false_iff.1 (State.pinOwner_own hpin)), hr]

/-- With a sound reference too, the referrers and then the curve decide (R11, steps 7 and 8). -/
theorem State.modifyCheck_rest (ha : c.state ≠ .active) (htag : ∀ j : Slot, s.ct.tags[j] = some q.tag → j = i)
    (hpin : ∀ j, s.ct.pins[q.pin] = some j → j = i) (hr : s.refCheck (some i) q = none) :
    s.modifyCheck i c q =
      if s.hasReferrer i ∧ (q.method ≠ c.defn.method ∨ q.countLen ≠ c.defn.countLen ∨ q.ref.isSome) then some .mismatch
      else if c.curve.isSome ∧ q.ref.isSome ≠ c.defn.reference.isSome then some .mismatch
      else none := by
  unfold State.modifyCheck
  rw [if_neg ha, if_neg (Bool.eq_false_iff.1 (State.tagSlot_own htag)),
    if_neg (Bool.eq_false_iff.1 (State.pinOwner_own hpin)), hr]

/-- A referrer that the definition would no longer match fails the check of R11, step 7. -/
theorem State.modifyCheck_referrer (ha : c.state ≠ .active) (htag : ∀ j : Slot, s.ct.tags[j] = some q.tag → j = i)
    (hpin : ∀ j, s.ct.pins[q.pin] = some j → j = i) (hr : s.refCheck (some i) q = none) (hi : s.hasReferrer i = true)
    (hq : q.method ≠ c.defn.method ∨ q.countLen ≠ c.defn.countLen ∨ q.ref ≠ none) :
    s.modifyCheck i c q = some .mismatch := by
  rw [State.modifyCheck_rest ha htag hpin hr]
  exact if_pos ⟨hi, by rwa [Option.isSome_iff_ne_none]⟩

/-- With no referrer against the definition, the curve decides (R11, step 8). -/
theorem State.modifyCheck_last (ha : c.state ≠ .active) (htag : ∀ j : Slot, s.ct.tags[j] = some q.tag → j = i)
    (hpin : ∀ j, s.ct.pins[q.pin] = some j → j = i) (hr : s.refCheck (some i) q = none)
    (hq : s.noReferrer i ∨ (q.method = c.defn.method ∧ q.countLen = c.defn.countLen ∧ q.ref = none)) :
    s.modifyCheck i c q =
      if c.curve.isSome ∧ q.ref.isSome ≠ c.defn.reference.isSome then some .mismatch else none := by
  rw [State.modifyCheck_rest ha htag hpin hr]
  refine if_neg ?_
  rintro ⟨hi, h⟩
  rcases hq with hq | ⟨hm, hn, hr⟩
  · rw [State.hasReferrer_false hq] at hi
    cases hi
  · simp [hm, hn, hr] at h

end ModifyCheck

/-- A MODIFY_CHANNEL of the right length that is taken runs on the state entered. -/
theorem exec_modifyChannel_taken {p : List Byte} {s : State} (h : s.takes) (hl : p.length = 18) :
    exec (.modifyChannel p) s = .next (doModify p s.entered) :=
  congrArg Host.Outcome.next (hostRequest_taken h (decide_eq_true hl))

section Modify

variable {p : List Byte} {q : DefReq} {s : State} {i : Slot} {g : Fin 16} {c : Channel}

/-- A MODIFY_CHANNEL that names an accepted handle is refused with the code its checks come to. -/
theorem exec_modifyChannel_refused {code : ResultCode} (ht : s.takes) (hl : p.length = 18)
    (hd : decodeDef p 1 = some q) (hb : chanHandle (byteAt p 0) = some (i, g)) (hc : s.accept i g = some c)
    (hcheck : s.modifyCheck i c q = some code) :
    exec (.modifyChannel p) s = .next { s with hp := s.answered code [] } := by
  have hcheck : s.entered.modifyCheck i c q = some code := hcheck
  rw [exec_modifyChannel_taken ht hl]
  unfold doModify
  simp only [hd]
  rw [onChannel_accepted (s := s.entered) hb rfl hc]
  simp only [hcheck, State.entered_respond]

/-- A MODIFY_CHANNEL that passes its checks has its effects, its answer and its pick. -/
theorem exec_modifyChannel_passed (ht : s.takes) (hl : p.length = 18)
    (hd : decodeDef p 1 = some q) (hb : chanHandle (byteAt p 0) = some (i, g)) (hc : s.accept i g = some c)
    (hcheck : s.modifyCheck i c q = none) :
    exec (.modifyChannel p) s = .next ({ s.modified i c q with hp := s.answered .ok [] } : State).pick := by
  have hcheck : s.entered.modifyCheck i c q = none := hcheck
  rw [exec_modifyChannel_taken ht hl]
  unfold doModify
  simp only [hd]
  rw [onChannel_accepted (s := s.entered) hb rfl hc]
  simp only [hcheck, State.modifyChannel_eq]
  rfl

end Modify

/-- Settles O18: every check passes, and the effects are those of `State.modified`. -/
theorem modifyChannel : Obligations.ModifyChannel := by
  intro p q s i g c ht hl hd hb hc ha htag hpin href hreferrer hcurve
  have hcheck : s.modifyCheck i c q = none := by
    rw [State.modifyCheck_last ha htag hpin (State.refCheck_none href) hreferrer]
    refine if_neg ?_
    rintro ⟨hk, hne⟩
    rcases hcurve with h | h
    · rw [h] at hk; cases hk
    · exact hne h
  obtain ⟨rfl, -⟩ := State.accept_eq_some.1 hc
  rw [exec_modifyChannel_passed ht hl hd hb hc hcheck]
  rfl

/-- Settles O19, check by check in the order of R11. -/
theorem modifyRefusals : Obligations.ModifyRefusals := by
  intro p s ht hl
  refine ⟨fun hd => ?malformed, fun q hd => ⟨fun hb => ?otherKind, fun i g hb => ⟨fun hc => ?stale, fun c hc => ?live⟩⟩⟩
  case malformed =>
    rw [exec_modifyChannel_taken ht hl]
    simp only [doModify, hd, State.entered_respond]
  case otherKind =>
    rw [exec_modifyChannel_taken ht hl]
    simp only [doModify, hd]
    rw [onChannel_field hb, State.entered_respond]
  case stale =>
    rw [exec_modifyChannel_taken ht hl]
    simp only [doModify, hd]
    rw [onChannel_stale (s := s.entered) hb rfl hc, State.entered_respond]
  case live =>
    have refused {code} := exec_modifyChannel_refused (code := code) ht hl hd hb hc
    refine ⟨fun ha => refused (State.modifyCheck_active ha), fun ha => ⟨fun j hj hne hu => ?duplicateTag, fun htag =>
      ⟨fun j hj hne => refused (State.modifyCheck_pinTaken ha htag hj hne), fun hpin => ?reference⟩⟩⟩
    case duplicateTag => exact refused (State.modifyCheck_duplicateTag ha (State.tagSlot_unique hj hu) hne)
    case reference =>
      have byReference {code} := State.modifyCheck_reference (code := code) (c := c) ha htag hpin
      refine ⟨fun r hr hacc => refused (byReference (State.refCheck_stale hr hacc)), fun r d hr hacc h =>
        refused (byReference ?_), fun href => ?_⟩
      · rcases h with h | h
        · exact State.refCheck_self hr hacc h
        · exact State.refCheck_mismatch hr hacc h
      · have href := State.refCheck_none href
        refine ⟨fun ⟨j, d, l, hd', hl', hi⟩ hq => refused (State.modifyCheck_referrer ha htag hpin href
          (State.hasReferrer_iff.2 ⟨j, d, hd', l, hl', hi⟩) hq), fun hreferrer hk hne => refused ?_⟩
        rw [State.modifyCheck_last ha htag hpin href hreferrer]
        exact if_pos ⟨Option.isSome_iff_ne_none.2 hk, hne⟩

/-! ## RETIRE_CHANNEL -/

/-- The record of a field whose source names the slot, at any generation, is detached (R108). -/
theorem Field.detached_eq (i : Slot) (d : Field) :
    d.detached i = if ∃ h, d.source = .channel i h then { d with source := .detached } else d := by
  unfold Field.detached
  cases hs : d.source with
  | channel j h => simp
  | host | detached => simp

theorem FieldSlot.detach_eq (i : Slot) (sl : FieldSlot) : sl.detach i = { sl with
    occupant := sl.occupant.map fun d =>
      if ∃ h, d.source = .channel i h then { d with source := .detached } else d } := by
  have e : sl.detach i = { sl with occupant := sl.occupant.map (Field.detached i) } := rfl
  rw [e, funext (Field.detached_eq i)]

/-- The fields whose source names the slot, at any generation (R108). -/
theorem State.fieldsNaming_eq (s : State) (i : Slot) : s.fieldsNaming i =
    (List.finRange 24).filter fun f => (s.field f).any fun d => decide (∃ h, d.source = .channel i h) := by
  refine List.filter_congr fun f _ => ?_
  cases s.field f with
  | none => rfl
  | some d => cases hs : d.source <;> simp [hs]

/-- Settles O20: with a referrer the refusal, and without one the effects of `State.retired`. -/
theorem retireChannel : Obligations.RetireChannel := by
  intro b s i g c ht hb hc
  have taken : exec (.retireChannel [b]) s =
      .next (if s.hasReferrer i then { s with hp := s.answered .inUse [] }
        else ({ s.retired i c with hp := s.answered .ok [] } : State).pick) := by
    refine congrArg Host.Outcome.next ((hostRequest_taken ht rfl).trans ?_)
    rw [doRetire, onChannel_accepted (b := byteAt [b] 0) (s := s.entered) hb rfl hc, State.retireChannel_eq]
    rfl
  rw [taken]
  refine ⟨fun j d l hd hl hi => ?_, fun hn => ?_⟩
  · rw [if_pos (State.hasReferrer_iff.2 ⟨j, d, hd, l, hl, hi⟩)]
  · obtain ⟨rfl, -⟩ := State.accept_eq_some.1 hc
    rw [State.hasReferrer_false hn, if_neg Bool.false_ne_true, State.retired, State.fieldsNaming_eq,
      funext (FieldSlot.detach_eq i)]
    rfl

/-! ## START_CHANNEL, SUSPEND_CHANNEL, PAUSE_SCHEDULE and RESUME_SCHEDULE -/

/-- Settles O27: each request on the state entered, by the state of its channel. -/
theorem scheduleRequests : Obligations.ScheduleRequests := by
  intro s ht
  refine ⟨congrArg Host.Outcome.next (hostRequest_taken ht rfl), congrArg Host.Outcome.next (hostRequest_taken ht rfl),
    fun b i g c hb hc => ?_⟩
  have start : exec (.startChannel [b]) s =
      .next (if c.state = .active then { s with hp := s.answered .wrongState [] }
        else ({ s.started i c with hp := s.answered .ok [] } : State).pick) := by
    refine congrArg Host.Outcome.next ((hostRequest_taken ht rfl).trans ?_)
    rw [doStart, onChannel_accepted (b := byteAt [b] 0) (s := s.entered) hb rfl hc, State.started_eq]
    rfl
  have suspend : exec (.suspendChannel [b]) s =
      .next (if c.state = .active then ({ s.suspended i c with hp := s.answered .ok [] } : State).pick
        else { s with hp := s.answered .wrongState [] }) := by
    refine congrArg Host.Outcome.next ((hostRequest_taken ht rfl).trans ?_)
    rw [doSuspend, onChannel_accepted (b := byteAt [b] 0) (s := s.entered) hb rfl hc, State.suspendChannel_eq]
    rfl
  refine ⟨fun ha => ?_, fun ha => ?_, fun ha => ?_, fun ha => ?_⟩
  · rw [start, if_pos ha]
  · rw [start, if_neg ha, State.started]
    simp only [State.queued, List.contains_iff_mem]
  · rw [suspend, if_neg ha]
  · rw [suspend, if_pos ha]
    rfl

/-! ## MEASURE_NOW -/

/-- A wait option or flag byte above 1 names neither yes nor no (R176). -/
theorem yesNo_eq_none {b : Byte} : yesNo b = none ↔ 1 < b.toNat := by
  unfold yesNo
  split
  · next h => simp [h]
  · split
    · next h => simp [h]
    · next h0 h1 =>
      simp only [true_iff]
      bv_omega

/-- A payload that is not well-formed is refused BAD_PARAMETER whatever the target byte is (R2). -/
theorem onChannel_malformed {ok : Bool} {b : Byte} {act : Slot → Channel → State → State} {s : State}
    (hok : ok = false) : onChannel ok b act s = s.respond .badParameter [] := by
  unfold onChannel
  cases chanHandle b with
  | none => rfl
  | some h => rw [hok]; rfl

/-- Settles O28: the wait option decides, and the effects are those of `State.measured`. -/
theorem measureNow : Obligations.MeasureNow := by
  intro b w s i g c ht hb hc
  have channel : s.entered.channel i = some c := (State.accept_eq_some.1 hc).2
  have taken : exec (.measureNow [b, w]) s = .next (doMeasure [b, w] s.entered) :=
    congrArg Host.Outcome.next (hostRequest_taken ht rfl)
  have run (hw : (yesNo w).isSome = true) : doMeasure [b, w] s.entered =
      if w = 1#8 then ((s.entered.measured i c true).wait (.measureNow i)).pick
      else ((s.entered.measured i c false).respond .ok []).pick := by
    rw [doMeasure, onChannel_accepted (ok := (yesNo (byteAt [b, w] 1)).isSome) (b := byteAt [b, w] 0) (s := s.entered) hb hw hc, State.measure_eq channel, State.measure_eq channel]
    rfl
  rw [taken]
  refine ⟨fun hw => ?_, fun hw => ?_, fun hw => ?_⟩
  · have hw : (yesNo (byteAt [b, w] 1)).isSome = false := Option.isSome_eq_false_iff.2 (Option.isNone_iff_eq_none.2
      (yesNo_eq_none.2 hw))
    rw [doMeasure, onChannel_malformed hw, State.entered_respond]
  · subst hw
    rw [run rfl, if_neg (by decide)]
    simp only [State.measured, Schedule.asked, Bool.not_false, Bool.or_true]
    rfl
  · subst hw
    rw [run rfl, if_pos rfl]
    simp only [State.measured, Schedule.asked, Bool.not_true, Bool.or_false]
    rfl

end Sys2Proof.Machine

/-! SUPPORT. O29, O30 and O31: picks, the events of a conversion in flight, and completions. -/

namespace Sys2Proof.Machine

/-! ## Picks -/

/-- A start by the pick: the channel considered has no reference, or the pick does not chain it (R49, R50). -/
theorem State.consider_started {s : State} {h : Slot} {c : Channel}
    (hr : ∀ l ∈ c.defn.reference, ∃ r ∈ s.channel l.slot,
      ((∃ d, r.result.usableWith l.maxAge d) ∨ c.sched.refTried = true ∨ r.state = .suspended)) :
    s.consider h c = s.startChannel h c := by
  unfold State.consider
  cases hl : c.defn.reference with
  | none => rfl
  | some l =>
    obtain ⟨r, hr, hu⟩ := hr l hl
    have hr : s.channel l.slot = some r := hr
    simp only [hr]
    refine if_pos ?_
    rcases hu with ⟨d, hd⟩ | h | h
    · rw [(Result.usable_iff _ _ _).2 hd]
      simp
    · simp [h]
    · simp [h]

/-- A chaining by the pick (R51). -/
theorem State.consider_chained {s : State} {h : Slot} {c r : Channel} {l : RefLink} (hl : c.defn.reference = some l)
    (hr : s.channel l.slot = some r) (hu : ∀ d, ¬r.result.usableWith l.maxAge d) (ht : c.sched.refTried = false)
    (hs : r.state ≠ .suspended) : s.consider h c = s.chain h l.slot r := by
  unfold State.consider
  simp only [hl, hr]
  refine if_neg ?_
  simp [Result.usable_none hu, ht, hs]

/-- Settles O29: the pick considers the first eligible entry, and starts or chains it. -/
theorem picks : Obligations.Picks := by
  intro s
  refine ⟨rfl, fun hn => ?_, fun h c hce hf hc => ?_⟩
  · unfold State.pick
    rw [State.picked_none hn]
  · have considered : s.pick = s.consider h c := by
      unfold State.pick
      rw [State.picked_some hce hf]
      simp only [hc]
    rw [considered]
    refine ⟨fun hr => ?_, fun l r hl hr hne hu ht hs => ?_⟩
    · rw [State.consider_started hr, State.startChannel_eq]
    · rw [State.consider_chained hl hr hu ht hs, State.chain, State.startChannel_eq, State.onSched_eq _ hc]
      have gen : (vput s.ct.slots h { gen := s.ct.slots[h].gen, occupant := some { c with
          sched := { c.sched with refTried := true } } })[l.slot] = s.ct.slots[l.slot] := vput_get_ne _ _ hne
      simp only [State.tableWith, State.toHead, State.setQueue, State.setMs, State.queueOf, gen]

/-! ## A conversion that goes on -/

section Edges

variable {s : State} {v : Conversion}

theorem State.sensorEdge_settling (hv : s.ce.conv = some v) (hp : v.phase = .settling) :
    s.sensorEdge = s.setConv v.settleEdge := by
  simp only [State.sensorEdge, hv, hp]

theorem State.sensorEdge_window (hv : s.ce.conv = some v) (hp : v.phase = .counting) (hm : v.method = .window) :
    s.sensorEdge = s.countOne v.restartEdge := by
  simp only [State.sensorEdge, hv, hp, hm]

theorem State.sensorEdge_period (hv : s.ce.conv = some v) (hp : v.phase = .counting) (hm : v.method = .period) :
    s.sensorEdge = s.periodEdge v := by
  simp only [State.sensorEdge, hv, hp, hm]

theorem State.fastPeriod_eq (hv : s.ce.conv = some v) : s.fastPeriod = if v.countsFast then s.countOne v else s := by
  simp only [State.fastPeriod, hv]

/-- A counted event below the counter's limit (R32). -/
theorem State.countOne_below (h : v.count < maxCount) : s.countOne v = s.setConv { v with count := v.count + 1 } :=
  if_neg (by omega)

/-- A counted event at the counter's limit (R32). -/
theorem State.countOne_past (h : v.count = maxCount) : s.countOne v = s.complete v.channel .overflow :=
  if_pos (by omega)

/-- Entering COUNTING starts the gate timer for WINDOW alone (R28, R30). -/
theorem Conversion.enterCounting_eq (v : Conversion) : v.enterCounting = { v with
    phase := .counting, gateTimer := if v.method = .window then some (v.countLen * 32) else none } := by
  unfold Conversion.enterCounting gateUnits
  cases hm : v.method <;> simp

theorem Conversion.countsFast_iff : v.countsFast = true ↔ v.phase = .counting ∧ v.method = .period ∧ v.opened = true := by
  simp [Conversion.countsFast, and_assoc]

end Edges

/-- Settles O30: the branches of a sensor edge and of a fast-clock period. -/
theorem edgesAndPeriods : Obligations.EdgesAndPeriods := by
  intro s
  refine ⟨fun hn c hc => ?_, fun v hv => ⟨fun hp hr => ?_, fun hp hr => ?_, fun hp hm hn => ?_, fun hp hm ho => ?_,
    fun hp hm ho hr => ?_, fun hp hm ho hn => ?_, fun h => ?_⟩⟩
  · simp only [List.mem_cons, List.not_mem_nil, or_false] at hc
    rcases hc with rfl | rfl | rfl | rfl | rfl
    · simp only [exec, execSensorEdge, State.sensorEdge, hn]
    · simp only [exec, execFastClockPeriod, State.fastPeriod, hn]
    · simp only [exec, execGateExpiry, State.gateExpiry, hn]
    · simp only [exec, execEdgeTimerExpiry, State.edgeExpiry, hn]
    · simp only [exec, execCounterOverflow, State.counterOverflow, hn]
  · refine congrArg Host.Outcome.next ((State.sensorEdge_settling hv hp).trans ?_)
    rw [Conversion.settleEdge, if_neg (by omega)]
    rfl
  · refine congrArg Host.Outcome.next ((State.sensorEdge_settling hv hp).trans ?_)
    rw [Conversion.settleEdge, if_pos (by omega), Conversion.enterCounting_eq, hr]
    rfl
  · exact congrArg Host.Outcome.next ((State.sensorEdge_window hv hp hm).trans (State.countOne_below (v := v.restartEdge) hn))
  · exact congrArg Host.Outcome.next ((State.sensorEdge_period hv hp hm).trans (if_neg (Bool.eq_false_iff.1 ho)))
  · exact congrArg Host.Outcome.next ((State.sensorEdge_period hv hp hm).trans ((if_pos ho).trans (if_neg (by omega))))
  · exact congrArg Host.Outcome.next ((State.fastPeriod_eq hv).trans ((if_pos (Conversion.countsFast_iff.2 ⟨hp, hm, ho⟩)).trans
      (State.countOne_below hn)))
  · refine congrArg Host.Outcome.next ((State.fastPeriod_eq hv).trans (if_neg ?_))
    rw [Conversion.countsFast_iff]
    rintro ⟨hp, hm, ho⟩
    rcases h with h | h | h
    · rw [hp] at h; cases h
    · rw [hm] at h; cases h
    · rw [ho] at h; cases h

/-! ## Completions -/

/-- Settles O31: each completing event runs the completion of the conversion in flight. -/
theorem completions : Obligations.Completions := by
  intro s v c hv hc
  have completes (e : Ending) {x : State} (hx : x = s.complete v.channel e) :
      Host.Outcome.next x = (.next (s.completedWith v.channel c (c.completed (s.refResult c) e)).pick :
        Host.Outcome State Fault Refusal) := by
    rw [hx, State.complete_eq e hc]
  refine ⟨fun hp hm => completes _ ?_, fun hp hm ho hr => completes _ ?_, completes _ ?_,
    fun hp hm hn => completes _ ?_, fun hp hm hn => completes _ ?_, fun hp hm ho hn => completes _ ?_⟩
  · simp only [State.gateExpiry, hv, (Conversion.countsEdges_iff v).2 ⟨hp, hm⟩, if_true]
  · rw [State.sensorEdge_period hv hp hm, State.periodEdge, if_pos ho, if_pos (by omega)]
  · simp only [State.edgeExpiry, hv]
  · have counts : (v.countsFast || v.countsEdges) = true := by
      rw [Bool.or_eq_true, Conversion.countsFast_iff, Conversion.countsEdges_iff]
      cases hv : v.method <;> simp_all
    simp only [State.counterOverflow, hv, counts, Bool.true_and]
    exact if_pos (decide_eq_true (by rw [hn]; decide))
  · rw [State.sensorEdge_window hv hp hm, State.countOne_past (v := v.restartEdge) hn]
    rfl
  · rw [State.fastPeriod_eq hv, if_pos (Conversion.countsFast_iff.2 ⟨hp, hm, ho⟩), State.countOne_past hn]

end Sys2Proof.Machine

/-! SUPPORT. O32, O33, O35 and O37: what a completion leaves of the result, the rule of curves, SET_CURVE and
SET_STALE_LIMIT. -/

namespace Sys2Proof.Machine

/-! ## The result part of a completion -/

/-- The limit state after an evaluation depends on the value and on the state found alone (R87). -/
theorem Result.evaluate_limit_congr {r t : Result} (hv : r.value = t.value) (hl : r.limit = t.limit)
    (l : Option Limits) : (r.evaluate l).limit = (t.evaluate l).limit := by
  unfold Result.evaluate
  rw [hv]
  cases t.value with
  | none => exact hl
  | some v =>
    cases l with
    | none => rfl
    | some l => simp only [hl]

/-- The steps 2 to 6 of a completion leave sequence, age, freshness and limit state (R64). -/
theorem Result.judge_kept (r : Result) (c : Channel) (ref : Option Result) (e : Ending) :
    (r.judge c ref e).seq = r.seq ∧ (r.judge c ref e).age = r.age ∧ (r.judge c ref e).freshness = r.freshness ∧
      (r.judge c ref e).limit = r.limit := by
  obtain ⟨o, raw, e, -⟩ | ⟨n, ratio, x, -, e, -⟩ := r.judge_cases c ref e
  · rw [e]; exact ⟨rfl, rfl, rfl, rfl⟩
  · rw [e]; simp

section Completed

variable {c : Channel} {ref : Option Result} {n : Nat}

/-- A count without a reference is the curve's input (R71, R72). -/
theorem Channel.completed_plain (hr : c.defn.reference = none) : c.completed ref (.count n) =
    (({ c.advanced with raw := some n, ratio := none } : Result).applyCurve c.curve n).evaluate c.limits := by
  rw [Channel.completed_eq]
  simp only [Result.judge, hr, Option.isNone_none, if_true]

section Referring

variable {l : RefLink} (hl : c.defn.reference = some l)

include hl

/-- A count whose reference is not usable has no ratio and no value (R68). -/
theorem Channel.completed_unusable (hu : ∀ r d, ref = some r → ¬r.usableWith l.maxAge d) :
    c.completed ref (.count n) = ({ c.advanced with
      outcome := .noReference, raw := some n, ratio := none, value := none } : Result).evaluate c.limits := by
  have none' : (ref.bind fun x => x.usable c.defn.refMaxAge) = none := by
    rw [ChannelDef.refMaxAge, hl, Option.bind_eq_none_iff]
    exact fun r hr => Result.usable_none fun d => hu r d hr
  rw [Channel.completed_eq]
  simp [Result.judge, hl, none']

/-- A count with a usable reference is judged by its ratio (R68, R69). -/
theorem Channel.completed_usable {r : Result} {d : Nat} (hr : ref = some r) (hd : r.usableWith l.maxAge d) :
    c.completed ref (.count n) =
      (if ratioOf n d ≤ 65535 then
        ({ c.advanced with raw := some n, ratio := some (ratioOf n d) } : Result).applyCurve c.curve (ratioOf n d)
      else { c.advanced with outcome := .overflow, raw := some n, ratio := none, value := none }).evaluate c.limits := by
  have some' : (ref.bind fun x => x.usable c.defn.refMaxAge) = some d := by
    rw [ChannelDef.refMaxAge, hl, hr]
    exact (Result.usable_iff _ _ _).2 hd
  rw [Channel.completed_eq]
  simp only [Result.judge, hl, Option.isNone_some, Bool.false_eq_true, if_false, some']

end Referring

end Completed

/-- The ratio is the nearest whole number, a tie going upward (R69). -/
theorem ratioOf_bounds (n : Nat) {d : Nat} (hd : 0 < d) :
    2 * d * ratioOf n d ≤ 2 * (n * 4096) + d ∧ 2 * (n * 4096) + d < 2 * d * (ratioOf n d + 1) := by
  obtain ⟨h1, h2⟩ := roundUp_bounds (n * 4096 : Nat) hd
  have hq : ((ratioOf n d : Nat) : Int) = roundUp (n * 4096 : Nat) d :=
    Int.toNat_of_nonneg (Int.ediv_nonneg (by omega) (by omega))
  rw [← hq] at h1 h2
  constructor
  · exact_mod_cast h1
  · exact_mod_cast h2

/-- A curve, or none, applied leaves the outcome and value of R71 and R72, and an evaluation leaves them. -/
theorem Result.applyCurve_judged (r : Result) (k : Option Curve) (x : Nat) (l : Option Limits) :
    (k = none → ((r.applyCurve k x).evaluate l).outcome = .good ∧ ((r.applyCurve k x).evaluate l).value = none) ∧
    ∀ k', k = some k' → ((r.applyCurve k x).evaluate l).outcome = (k'.apply x).1 ∧
      ((r.applyCurve k x).evaluate l).value = some (k'.apply x).2 := by
  simp only [Result.evaluate_outcome, Result.evaluate_value]
  refine ⟨?_, ?_⟩
  · rintro rfl
    exact ⟨rfl, rfl⟩
  · rintro k' rfl
    exact ⟨rfl, rfl⟩

/-- Settles O32: the common steps of a completion, then each ending with each state of the reference. -/
theorem completedResult : Obligations.CompletedResult := by
  intro c ref e
  obtain ⟨hseq, hage, hfresh, hlimit⟩ := c.advanced.judge_kept c ref e
  refine ⟨?_, ?_, ?_, fun hv => ?_, fun hv => ?_, ?_, ?_, ?_⟩
  · rw [Channel.completed_eq, Result.evaluate_seq, hseq]; rfl
  · rw [Channel.completed_eq, Result.evaluate_age, hage]; rfl
  · rw [Channel.completed_eq, Result.evaluate_freshness, hfresh]; rfl
  · rw [Channel.completed_eq, Result.evaluate_value] at hv
    rw [Channel.completed_eq, Result.evaluate_of_absent hv, hlimit]
    rfl
  · rw [Channel.completed_eq]
    exact Result.evaluate_limit_congr
      (t := { c.result with value := ((c.advanced.judge c ref e).evaluate c.limits).value })
      (Result.evaluate_value _ _).symm hlimit _
  · rintro rfl
    simp [Channel.completed_eq, Result.judge]
  · rintro rfl
    simp [Channel.completed_eq, Result.judge]
  · rintro n rfl
    have raw : (c.completed ref (.count n)).raw = some n := by
      rw [Channel.completed_eq, Result.evaluate_raw]
      cases hl : c.defn.reference with
      | none => simp [Result.judge, hl]
      | some l =>
        simp only [Result.judge, hl, Option.isNone_some, Bool.false_eq_true, if_false]
        split
        · rfl
        · split <;> simp
    refine ⟨raw, fun hr => ?_, fun l hl => ⟨fun hu => ?_, fun r d hr hd => ?_⟩⟩
    · rw [Channel.completed_plain hr]
      exact ⟨by simp, Result.applyCurve_judged _ _ _ _⟩
    · rw [Channel.completed_unusable hl hu]
      simp
    · have ⟨_, _, hd0, _⟩ := hd
      obtain ⟨h1, h2⟩ := ratioOf_bounds n (Nat.pos_of_ne_zero hd0)
      rw [Channel.completed_usable hl hr hd]
      refine ⟨ratioOf n d, h1, h2, fun hq => ?_, fun hq => ?_⟩
      · rw [if_neg (by omega)]
        simp
      · rw [if_pos hq]
        exact ⟨by simp, Result.applyCurve_judged _ _ _ _⟩

/-! ## Curves -/

/-- The first of increasing breakpoints is at or below each (R70). -/
theorem increasing_head_le {a p : Breakpoint} {rest : List Breakpoint} (hi : increasing (a :: rest) = true)
    (h : p ∈ a :: rest) : a.x ≤ p.x := by
  rcases List.mem_cons.1 h with rfl | h
  · exact le_rfl
  · obtain ⟨f, k, hs⟩ := List.append_of_mem h
    rw [hs] at hi
    exact (increasing_lt hi).le

/-- From a breakpoint at or below the input on, an input above the last breakpoint answers OVER with the last y (R71). -/
theorem applyFrom_over {a p : Breakpoint} {rest front : List Breakpoint} {x : Nat} (hi : increasing (a :: rest) = true)
    (h : a :: rest = front ++ [p]) (hp : p.x < x) : applyFrom a rest x = (.over, p.y) := by
  induction rest generalizing a front with
  | nil =>
    obtain rfl : front = [] := by simpa using congrArg List.length h
    cases h
    exact if_neg (by omega)
  | cons b more ih =>
    cases front with
    | nil => cases h
    | cons c fr =>
      obtain ⟨-, h⟩ := List.cons.inj h
      have h : b :: more = fr ++ [p] := h
      have below {d : Breakpoint} (hd : d ∈ b :: more) : a.x < d.x := by
        obtain ⟨f, k, hs⟩ := List.append_of_mem hd
        rw [hs] at hi
        exact increasing_lt hi
      have ha := below (d := p) (by rw [h]; simp)
      have hb : b.x ≤ p.x := by
        cases fr with
        | nil => cases h; exact le_rfl
        | cons d fr => exact increasing_head_le (increasing_tail hi) (by rw [h]; simp)
      unfold applyFrom
      rw [if_neg (by omega), if_neg (by omega)]
      exact ih (increasing_tail hi) h

/-- A curve with a first breakpoint, at an input not below it, answers from it on (R71). -/
theorem Curve.apply_from {k : Curve} {a : Breakpoint} {rest : List Breakpoint} {x : Nat} (hk : k.points = a :: rest)
    (hx : a.x ≤ x) : k.apply x = applyFrom a rest x := by
  unfold Curve.apply
  rw [hk]
  exact if_neg (by omega)

/-- Settles O33: where the input stands among the breakpoints. -/
theorem curveRule : Obligations.CurveRule := by
  intro k x hi
  refine ⟨fun p rest hk hx => ?_, fun p front hk hx => ?_, fun p hp hx => ?_, fun a b front back hk h1 h2 => ?_⟩
  · unfold Curve.apply
    rw [hk]
    exact if_pos hx
  · obtain ⟨c, rest, hc⟩ := List.exists_cons_of_ne_nil (l := k.points) (by simp [hk])
    rw [hc] at hi
    have hle := increasing_head_le hi (p := p) (by rw [← hc, hk]; simp)
    rw [Curve.apply_from hc (by omega)]
    exact applyFrom_over hi (hc.symm.trans hk) hx
  · obtain ⟨c, rest, hc⟩ := List.exists_cons_of_ne_nil (List.ne_nil_of_mem hp)
    rw [hc] at hi hp
    subst hx
    rw [Curve.apply_from hc (increasing_head_le hi hp)]
    exact applyFrom_at hi hp
  · obtain ⟨c, rest, hc⟩ := List.exists_cons_of_ne_nil (l := k.points) (by simp [hk])
    rw [hc] at hi
    have hle := increasing_head_le hi (p := a) (by rw [← hc, hk]; simp)
    have hw : ((b.x - a.x : Nat) : Int) = (b.x : Int) - a.x := by omega
    have hd : ((x - a.x : Nat) : Int) = (x : Int) - a.x := by omega
    obtain ⟨hlo, hhi⟩ := interpolate_between h1 h2
    have near := roundAway_nearest (a.y * (b.x - a.x : Nat) + (b.y - a.y) * (x - a.x : Nat)) (den := b.x - a.x) (by omega)
    refine ⟨interpolate a b x, ?_, hlo, hhi, ?_⟩
    · rw [Curve.apply_from hc (by omega)]
      exact applyFrom_between hi (hc.symm.trans hk) h1 h2
    · rw [← hw, ← hd]
      exact near

/-! ## SET_CURVE -/

/-- Settles O35: the rules of a curve decide, and the effects are those of `Channel.recurved`. -/
theorem setCurve : Obligations.SetCurve := by
  intro p s i g c ht hl3 hl hdec hb hc
  have hlen : curveLengthOk p = true := by simp [curveLengthOk, hl3, ← hl]
  have hok : (byteAt p 2 = 0#8 || (byteAt p 1).toNat ≤ 3) = true := by simpa using hdec
  have run : exec (.setCurve p) s = .next (if curveOk c.defn (breakpoints p (byteAt p 2).toNat) then
      (s.entered.setCurve i c (suppliedCurve p)).respond .ok [] else s.entered.respond .badCurve []) := by
    refine congrArg Host.Outcome.next ((hostRequest_taken ht hlen).trans ?_)
    rw [doSetCurve, onChannel_accepted (s := s.entered) hb hok hc]
  rw [run]
  refine ⟨fun hbad => ?_, fun hgood => ?_⟩
  · rw [if_neg (Bool.eq_false_iff.1 hbad), State.entered_respond]
  · rw [if_pos hgood, State.setCurve_eq]
    refine ⟨suppliedCurve p, (c.recurved (suppliedCurve p)).result, fun h0 => if_pos h0, fun h0 => if_neg h0,
      fun h1 h2 h3 => ?_, fun x ho hx => ?_, rfl⟩
    · obtain ⟨_, -, ho, -⟩ | ⟨-, e⟩ := ({ c with curve := suppliedCurve p } : Channel).recomputed_eq
      · rcases ho with ho | ho | ho
        · exact absurd ho h1
        · exact absurd ho h2
        · exact absurd ho h3
      · rw [Channel.recurved, e]
    · have e : ({ c with curve := suppliedCurve p } : Channel).recomputed = c.result.applyCurve (suppliedCurve p) x := by
        obtain ⟨y, hy, -, e⟩ | ⟨hn | hn, -⟩ := ({ c with curve := suppliedCurve p } : Channel).recomputed_eq
        · obtain rfl : x = y := Option.some.inj (hx.symm.trans hy)
          exact e
        · exact absurd (hx.symm.trans hn) (by simp)
        · exact absurd ho (by simpa using hn)
      rw [Channel.recurved, e]
      cases suppliedCurve p <;> rfl

/-! ## SET_STALE_LIMIT -/

/-- Settles O37: the limit decides, and the effects are those of `Channel.restaled`. -/
theorem setStaleLimit : Obligations.SetStaleLimit := by
  intro b hi lo s i g c ht hb hc
  have word : word16 [b, hi, lo] 1 = hi.toNat * 256 + lo.toNat := rfl
  have taken : exec (.setStaleLimit [b, hi, lo]) s = .next (doSetStaleLimit [b, hi, lo] s.entered) :=
    congrArg Host.Outcome.next (hostRequest_taken ht rfl)
  rw [taken, doSetStaleLimit, word]
  generalize hi.toNat * 256 + lo.toNat = limit
  refine ⟨fun hl => ?_, fun hl => ?_⟩
  · rw [onChannel_malformed (by simpa using hl), State.entered_respond]
  · rw [onChannel_accepted (b := byteAt [b, hi, lo] 0) (s := s.entered) hb (decide_eq_true hl) hc, State.setStaleLimit_eq]
    refine ⟨fun ho => ?_, fun a ho ha => ⟨freshnessOf limit a, freshnessOf_stale_iff limit a, ?_⟩⟩
    · have e : c.restaled limit = { c with staleLimit := limit } := by
        simp only [Channel.restaled, if_pos ho]
      rw [e]
      simp only [ne_eq, not_true_eq_false, decide_false, State.pairsRaised_none]
      rfl
    · have e : c.restaled limit =
          { c with staleLimit := limit, result := { c.result with freshness := some (freshnessOf limit a) } } := by
        simp only [Channel.restaled, if_neg ho, ha, Option.map_some]
      rw [e]
      rfl

end Sys2Proof.Machine

/-! SUPPORT. O38 to O43: the requests of the Field Table, SET_FIELD_VALUE and the render. -/

namespace Sys2Proof.Machine

/-! ## The segment list of BIND_FIELD -/

/-- A table with a FREE field slot has a first one (R94). -/
theorem State.freeField_isSome {s : State} {f : FieldIx} (h : s.field f = none) : ∃ k, s.freeField = some k := by
  unfold State.freeField
  rw [← Option.isSome_iff_exists, List.find?_isSome]
  exact ⟨f, List.mem_finRange f, by simp [h]⟩

/-- A table with every field slot bound has no FREE one (R94). -/
theorem State.freeField_none {s : State} (h : ∀ f : FieldIx, s.field f ≠ none) : s.freeField = none := by
  unfold State.freeField
  rw [List.find?_eq_none]
  intro f _
  simpa using h f

/-- The address that a byte names, kept when it exists under the duty in force (R103, step 5). -/
theorem State.addrIn_eq (s : State) (b : Byte) : s.addrIn b = (segAddr b).filter (inGeometry s.gs.settings.duty) := by
  unfold State.addrIn
  cases segAddr b with
  | none => rfl
  | some a => simp [Option.filter]

/-- The addresses of a list each of whose bytes names one. -/
theorem State.addrs_of_map {s : State} {l : List Byte} {segs : List SegAddr} (h : l.map s.addrIn = segs.map some) :
    l.findIdx? (fun b => (s.addrIn b).isNone) = none ∧ l.filterMap s.addrIn = segs := by
  constructor
  · rw [List.findIdx?_eq_none_iff]
    intro b hb
    have : s.addrIn b ∈ segs.map some := h ▸ List.mem_map_of_mem hb
    obtain ⟨a, -, ha⟩ := List.mem_map.1 this
    rw [← ha]
    rfl
  · have e : l.filterMap s.addrIn = (l.map s.addrIn).filterMap id := by rw [List.filterMap_map]; rfl
    rw [e, h, List.filterMap_map]
    simp

/-- The first entry that names no address of the geometry (R103, step 5). -/
theorem State.firstOutside {s : State} {front back : List Byte} {b : Byte}
    (hf : ∀ x ∈ front, (s.addrIn x).isSome = true) (hb : s.addrIn b = none) :
    (front ++ b :: back).findIdx? (fun b => (s.addrIn b).isNone) = some front.length := by
  have none' : front.findIdx? (fun b => (s.addrIn b).isNone) = none := by
    rw [List.findIdx?_eq_none_iff]
    intro x hx
    simpa using hf x hx
  rw [List.findIdx?_append, none']
  simp [List.findIdx?_cons, hb]

/-- The first entry that repeats an address (R103, step 6). -/
theorem firstDuplicate_some {front back : List SegAddr} {a : SegAddr} (hn : front.Nodup) (ha : a ∈ front) :
    firstDuplicate (front ++ a :: back) = some front.length := by
  unfold firstDuplicate
  rw [List.find?_range_eq_some]
  refine ⟨?_, by simp, fun j hj => ?_⟩
  · simpa [List.getD_eq_getElem?_getD] using ha
  · have take : (front ++ a :: back).take j = front.take j := List.take_append_of_le_length hj.le
    have get : (front ++ a :: back).getD j 0 = front[j] := by
      simp [List.getD_eq_getElem?_getD, List.getElem?_append_left hj, hj]
    rw [take, get]
    simp only [List.contains_eq_mem, Bool.not_eq_true', decide_eq_false_iff_not]
    intro hm
    obtain ⟨k, hk, e⟩ := List.mem_take_iff_getElem.1 hm
    have := (List.Nodup.getElem_inj_iff hn).1 e
    omega

/-- A list without an owned address has no owned entry (R103, step 7). -/
theorem State.firstOwned_none {s : State} {l : List SegAddr} (h : ∀ a ∈ l, s.ft.owners[a] = none) (k : Nat) :
    ((l.zipIdx k).findSome? fun ak => s.ft.owners[ak.1].map fun f => (ak.2, f)) = none := by
  rw [List.findSome?_eq_none_iff]
  rintro ⟨a, j⟩ ha
  have := h a (List.fst_mem_of_mem_zipIdx ha)
  simp only [this, Option.map_none]

/-- The first entry that names an owned address (R103, step 7). -/
theorem State.firstOwned_some {s : State} {front back : List SegAddr} {a : SegAddr} {o : FieldIx}
    (hf : ∀ x ∈ front, s.ft.owners[x] = none) (ha : s.ft.owners[a] = some o) :
    s.firstOwned (front ++ a :: back) = some (front.length, o) := by
  unfold State.firstOwned
  rw [List.zipIdx_append, List.findSome?_append, State.firstOwned_none hf, List.zipIdx_cons, List.findSome?_cons]
  simp only [ha, Option.map_some, Option.none_or, Nat.zero_add]

/-! ## BIND_FIELD -/

section Bind

variable {p : List Byte} {q : BindReq} {s : State} {f : FieldIx}

/-- A BIND_FIELD of the right length that is taken runs on the state entered. -/
theorem exec_bindField_taken (ht : s.takes) (hl : 11 ≤ p.length) (hc : p.length = 11 + (byteAt p 10).toNat) :
    exec (.bindField p) s = .next (doBind p s.entered) :=
  congrArg Host.Outcome.next (hostRequest_taken ht (by simp [bindLengthOk, hl, ← hc]))

/-- A bind that passes the first four checks of R103 goes on with its list. -/
theorem doBind_list (hd : decodeBind p = some q) (hn : lengthAllowed q.kind (byteAt p 10).toNat = true)
    (hs : s.sourceLive q.source = true) (hf : s.freeField = some f) : doBind p s = s.bindList f q (p.drop 11) := by
  simp [doBind, hd, hn, hs, hf]

/-- A list that passes its three checks is bound (R104). -/
theorem State.bindList_bound {l : List Byte} {segs : List SegAddr} (h : l.map s.addrIn = segs.map some)
    (hn : segs.Nodup) (ho : ∀ a ∈ segs, s.ft.owners[a] = none) :
    s.bindList f q l = (s.bound f (q.toField segs)).respond .ok [s.fieldHandleByte f] := by
  obtain ⟨hidx, haddrs⟩ := State.addrs_of_map h
  have unowned : s.firstOwned segs = none := State.firstOwned_none ho 0
  unfold State.bindList
  simp only [hidx, haddrs, firstDuplicate_none hn, unowned, State.bindField_eq]

end Bind

/-- Settles O38: the bind passes every check, and its effects are those of `State.bound`. -/
theorem bindField : Obligations.BindField := by
  intro p q s f segs ht hl hc hd hlen hs hf haddrs hgeo hn ho
  have hmap : (p.drop 11).map s.addrIn = segs.map some := by
    have e : (p.drop 11).map s.addrIn = ((p.drop 11).map segAddr).map fun o => o.filter (inGeometry s.gs.settings.duty) := by
      rw [List.map_map]
      exact List.map_congr_left fun b _ => s.addrIn_eq b
    rw [e, haddrs, List.map_map]
    exact List.map_congr_left fun a ha => by simp [Option.filter, hgeo a ha]
  have hcount : (byteAt p 10).toNat = segs.length := by
    have := congrArg List.length haddrs
    simp only [List.length_map, List.length_drop] at this
    omega
  refine ⟨setOwners s.ft.owners segs (some f), setOwners_get _ _ _, ?_⟩
  rw [exec_bindField_taken ht hl hc,
    doBind_list (s := s.entered) hd (by rw [hcount]; exact hlen) hs (State.freeField_eq (s := s.entered) hf),
    State.bindList_bound (s := s.entered) hmap hn ho]
  rfl

/-- Settles O39, check by check in the order of R103. -/
theorem bindRefusals : Obligations.BindRefusals := by
  intro p s ht hl hc
  rw [exec_bindField_taken ht hl hc]
  refine ⟨fun hd => ?malformed, fun q hd => ⟨fun hn => ?badLength, fun hn => ⟨fun hs => ?stale, fun hs =>
    ⟨fun hfull => ?noSlot, fun f hf => ?list⟩⟩⟩⟩
  case malformed => simp only [doBind, hd, State.entered_respond]
  case badLength => simp only [doBind, hd, hn, Bool.not_false, if_true, State.entered_respond]
  case stale =>
    have hs : s.entered.sourceLive q.source = false := hs
    simp [doBind, hd, hn, hs, State.entered_respond]
  case noSlot =>
    have hs : s.entered.sourceLive q.source = true := hs
    simp [doBind, hd, hn, hs, State.freeField_none (s := s.entered) hfull, State.entered_respond]
  case list =>
    obtain ⟨k, hk⟩ := State.freeField_isSome (s := s.entered) hf
    rw [doBind_list (s := s.entered) hd hn hs hk]
    refine ⟨fun front b back hp hfront hb => ?_, fun segs hmap => ?_⟩
    · have hidx := State.firstOutside (s := s.entered) (back := back) hfront hb
      rw [State.bindList, hp, hidx]
      rfl
    · obtain ⟨hidx, haddrs⟩ := State.addrs_of_map (s := s.entered) hmap
      unfold State.bindList
      simp only [hidx, haddrs]
      refine ⟨fun front a back hsegs hn ha => ?_, fun hn front a back o hsegs hfront ha => ?_⟩
      · rw [hsegs, firstDuplicate_some hn ha]
        rfl
      · have hown := State.firstOwned_some (s := s.entered) (back := back) hfront ha
        rw [firstDuplicate_none hn, hsegs, hown]
        rfl

/-! ## EDIT_FIELD and RETARGET_FIELD -/

/-- Settles O40: each request on the accepted field, by the admission of its source. -/
theorem editAndRetarget : Obligations.EditAndRetarget := by
  intro s f g d ht hacc
  refine ⟨fun p look kind hl hb hlook hkind => ?edit, fun b x y src hb hsrc => ?retarget⟩
  case edit =>
    have run : exec (.editField p) s = .next (if admits kind d.source then
        { s with ft := s.fieldsWith f (d.edited kind look), re := s.dirtied [f], hp := s.answered .ok [] }
        else { s with hp := s.answered .wrongState [] }) := by
      refine congrArg Host.Outcome.next ((hostRequest_taken ht (decide_eq_true hl)).trans ?_)
      simp only [doEdit, hlook]
      rw [onField_accepted (s := s.entered) hb rfl hacc]
      simp only [doEditAccepted, hkind, State.putField_markDirty]
      rfl
    rw [run]
    refine ⟨fun ha => ?_, fun ha => ?_⟩
    · rw [if_neg (Bool.eq_false_iff.1 ha)]
    · rw [if_pos ha]
      rfl
  case retarget =>
    have run : exec (.retargetField [b, x, y]) s = .next (
        if !s.sourceLive src then { s with hp := s.answered .staleHandle [] }
        else if !admits d.kind src then { s with hp := s.answered .wrongState [] }
        else { s with ft := s.fieldsWith f (d.retargeted src), re := s.dirtied [f], hp := s.answered .ok [] }) := by
      have hsrc : decodeSource (byteAt [b, x, y] 1) (byteAt [b, x, y] 2) = some src := hsrc
      refine congrArg Host.Outcome.next ((hostRequest_taken ht rfl).trans ?_)
      simp only [doRetarget, hsrc]
      rw [onField_accepted (b := byteAt [b, x, y] 0) (s := s.entered) hb rfl hacc]
      simp only [State.putField_markDirty]
      rfl
    rw [run]
    refine ⟨fun hs => ?_, fun hs ha => ?_, fun hs ha => ?_⟩
    · simp [hs]
    · simp [hs, ha]
    · simp [hs, ha, Field.retargeted]

/-! ## RETIRE_FIELD -/

/-- Settles O41: by what the ownership map and the plane read after the retirement. -/
theorem retireField : Obligations.RetireField := by
  intro b s f g d ht hb hacc
  obtain ⟨rfl, -⟩ := State.acceptField_eq_some.1 hacc
  refine ⟨setOwners s.ft.owners d.segs none, s.re.plane.write (d.segs.map fun a => (a, .off)), setOwners_get _ _ _,
    Plane.write_const_get _ _ _, congrArg Host.Outcome.next ((hostRequest_taken ht rfl).trans ?_)⟩
  rw [doRetireField, onField_accepted (b := byteAt [b] 0) (s := s.entered) hb rfl hacc]
  rfl

/-! ## SET_FIELD_VALUE -/

/-- A pattern's elements fit the list; other data fit any (R128, step 5). -/
theorem patternFits_iff {n : Nat} {x : Option HostDatum} :
    patternFits n x = true ↔ ∀ e, x = some (.pattern e) → e.length = n := by
  rcases x with _ | _ | _ | e <;> simp [patternFits]

/-- Settles O42: the steps 3 to 5 of R128 in their order, and the write. -/
theorem setFieldValue : Obligations.SetFieldValue := by
  intro p s f g d x ht hl hb hx hacc
  have run : exec (.setFieldValue p) s = .next (
      if d.source ≠ .host then { s with hp := s.answered .wrongState [] }
      else if !formMatches d.kind x then { s with hp := s.answered .badParameter [] }
      else if !patternFits d.segs.length x then { s with hp := s.answered .badLength [] }
      else { s with ft := s.fieldsWith f { d with hostData := x }, re := s.dirtied [f], hp := s.answered .ok [] }) := by
    refine congrArg Host.Outcome.next ((hostRequest_taken ht hl).trans ?_)
    rw [doSetFieldValue, onField_accepted (s := s.entered) hb (by rw [hx]; rfl) hacc, hx]
    simp only [State.putField_markDirty]
    rfl
  rw [run]
  refine ⟨fun hs => ?_, fun hs hf => ?_, fun hs hf hp => ?_, fun hs hf hp => ?_⟩
  · rw [if_pos hs]
  · simp [hs, hf]
  · obtain ⟨e, he, hne⟩ := hp
    have hbad : patternFits d.segs.length x = false :=
      Bool.eq_false_iff.2 fun h => hne (patternFits_iff.1 h e he)
    simp [hs, hf, hbad]
  · simp [hs, hf, patternFits_iff.2 hp]

/-! ## The render -/

/-- The blink condition of a mode for each source state (R120). -/
theorem SourceView.blinks_iff (v : SourceView) (m : BlinkMode) : v.blinks m = true ↔ m = .always ∨
    (m = .onAlarm ∧ ∃ r dec, v = .channel r dec ∧ (r.limit = .low ∨ r.limit = .high)) ∨
    (m = .onDoubt ∧ (v = .detached ∨ v = .host none ∨
      ∃ r dec, v = .channel r dec ∧ (r.outcome ≠ .good ∨ r.freshness = some .stale))) := by
  cases m with
  | none | always => simp [SourceView.blinks]
  | onAlarm => cases v <;> simp [SourceView.blinks]
  | onDoubt => cases v <;> simp [SourceView.blinks]

theorem litState_eq (d : Field) (v : SourceView) : litState d v =
    if v.blinks d.blinkMode = true then (if d.blinkRate = .slow then .blinkSlow else .blinkFast) else .on := by
  unfold litState
  cases hr : d.blinkRate <;> simp

/-- The state of each segment of a field (R120). -/
theorem segmentStates_get {d : Field} {v : SourceView} {j : Nat} (hj : j < d.segs.length) :
    (segmentStates d v)[j]? = some (if d.visible = true ∧ (litSegments d.kind d.segs.length v)[j]? = some true
      then litState d v else .off) := by
  have lit : ((litSegments d.kind d.segs.length v).getD j false = true) ↔
      (litSegments d.kind d.segs.length v)[j]? = some true := by
    rw [List.getD_eq_getElem?_getD]
    cases (litSegments d.kind d.segs.length v)[j]? <;> simp
  unfold segmentStates
  by_cases hv : d.visible = true
  · simp only [hv, true_and, ← lit, if_true]
    rw [List.getElem?_map, List.getElem?_range hj]
    rfl
  · rw [if_neg hv, if_neg fun h => hv h.1, List.getElem?_replicate, if_pos hj]

/-- The pending plane after a field is rendered (R116). -/
theorem rendered_get {d : Field} (p : Plane) (v : SourceView) (hn : d.segs.Nodup) :
    (∀ a : SegAddr, a ∉ d.segs → (p.write (d.segs.zip (segmentStates d v)))[a] = p[a]) ∧
    ∀ (j : Nat) (a : SegAddr), d.segs[j]? = some a → (p.write (d.segs.zip (segmentStates d v)))[a] =
      if d.visible = true ∧ (litSegments d.kind d.segs.length v)[j]? = some true then litState d v else .off := by
  have fst : (d.segs.zip (segmentStates d v)).map Prod.fst = d.segs :=
    List.map_fst_zip (segmentStates_length d v).ge
  refine ⟨fun a ha => Plane.write_get_of_notMem _ _ _ (by rwa [fst]), fun j a ha => ?_⟩
  have hj : j < d.segs.length := (List.getElem?_eq_some_iff.1 ha).1
  refine Plane.write_get_of_mem p _ (by rwa [fst]) (a, _) (List.mem_of_getElem? (i := j) ?_)
  rw [List.getElem?_zip_eq_some]
  exact ⟨ha, segmentStates_get hj⟩

/-- Settles O43: the head of the queue, its source as it stands, and the plane written with its segments' states. -/
theorem render : Obligations.Render := by
  refine ⟨fun s hq => ?_, fun s f rest d hq hd hn => ?_⟩
  · simp only [exec, execRender, State.render, hq]
  · obtain ⟨hkept, hwritten⟩ := rendered_get s.re.plane (s.view d) hn
    refine ⟨s.view d, (s.view d).blinks d.blinkMode, s.re.plane.write (d.segs.zip (segmentStates d (s.view d))),
      fun h => ?_, fun h => ?_, fun i g c h hc => ?_, SourceView.blinks_iff _ _, hkept, fun j a ha => ?_, ?_⟩
    · simp only [State.view, h]
    · simp only [State.view, h]
    · simp only [State.view, h, hc]
      cases c.curve <;> rfl
    · rw [hwritten j a ha, litState_eq]
    · simp only [exec, execRender, State.render, hq, hd]
      rfl

end Sys2Proof.Machine

/-! SUPPORT. O21, O47 to O53: the reads, the glass, what the pins show, the attention requests, and the state right after
reset. -/

namespace Sys2Proof.Machine

/-! ## The reads -/

/-- Settles O21: each read answers a report of the state entered and changes nothing else. -/
theorem readRequests : Obligations.ReadRequests := by
  intro s ht
  have plane (b : Byte) : exec (.readPlane [b]) s = .next (doReadPlane [b] s.entered) :=
    congrArg Host.Outcome.next (hostRequest_taken ht rfl)
  have owner (b : Byte) : exec (.readOwner [b]) s = .next (doReadOwner [b] s.entered) :=
    congrArg Host.Outcome.next (hostRequest_taken ht rfl)
  have addr (b : Byte) : s.entered.addrIn (byteAt [b] 0) = (segAddr b).filter (inGeometry s.gs.settings.duty) :=
    State.addrIn_eq s.entered b
  refine ⟨fun b i g c hb hc => ?_, fun b f g d hb hd => ?_, fun b a ha hg => ?_, fun b hb => ?_, ?_, ?_, fun b hb => ?_⟩
  · refine congrArg Host.Outcome.next ((hostRequest_taken ht rfl).trans ?_)
    rw [doReadChannel, onChannel_accepted (b := byteAt [b] 0) (s := s.entered) hb rfl hc]
    rfl
  · obtain ⟨rfl, -⟩ := State.acceptField_eq_some.1 hd
    refine congrArg Host.Outcome.next ((hostRequest_taken ht rfl).trans ?_)
    rw [doReadField, onField_accepted (b := byteAt [b] 0) (s := s.entered) hb rfl hd]
    rfl
  · have addr : s.entered.addrIn (byteAt [b] 0) = some a := by
      rw [addr, ha]
      simp [Option.filter, hg]
    have owners : s.entered.ft.owners = s.ft.owners := rfl
    rw [owner, doReadOwner]
    simp only [addr, owners]
    cases s.ft.owners[a] <;> rfl
  · have addr : s.entered.addrIn (byteAt [b] 0) = none := by
      rw [addr, Option.filter_eq_none_iff]
      intro a ha
      simp [hb a ha]
    rw [owner, doReadOwner]
    simp only [addr, State.entered_respond]
  · rw [plane]
    rfl
  · rw [plane]
    rfl
  · have h0 : ¬byteAt [b] 0 = 0#8 := by
      rintro rfl
      exact absurd hb (by decide)
    have h1 : ¬byteAt [b] 0 = 1#8 := by
      rintro rfl
      exact absurd hb (by decide)
    rw [plane, doReadPlane, if_neg h0, if_neg h1, State.entered_respond]

/-! ## SET_GLASS -/

/-- The addresses that a duty removes, in address order (R102). -/
theorem mem_removedBy {old new : Duty} {a : SegAddr} :
    a ∈ removedBy old new ↔ inGeometry old a = true ∧ inGeometry new a = false := by
  simp [removedBy, geometry, and_comm]

theorem removedBy_sorted (old new : Duty) : (removedBy old new).Pairwise (· < ·) :=
  ((List.pairwise_lt_finRange 132).filter _).filter _

/-- Without an owned address to remove there is no conflict (R143). -/
theorem State.conflict_eq_none {s : State} {d : Duty} (h : ∀ a : SegAddr, inGeometry s.gs.settings.duty a = true →
    inGeometry d a = false → s.ft.owners[a] = none) : s.conflict d = none := by
  unfold State.conflict
  rw [List.findSome?_eq_none_iff]
  intro a ha
  obtain ⟨hold, hnew⟩ := mem_removedBy.1 ha
  rw [h a hold hnew]
  rfl

/-- The conflict is at the lowest owned address to remove (R143). -/
theorem State.conflict_eq_some {s : State} {d : Duty} {a : SegAddr} {f : FieldIx}
    (hold : inGeometry s.gs.settings.duty a = true) (hnew : inGeometry d a = false) (ha : s.ft.owners[a] = some f)
    (hlow : ∀ b : SegAddr, b < a → inGeometry s.gs.settings.duty b = true → inGeometry d b = false →
      s.ft.owners[b] = none) : s.conflict d = some (a, f) := by
  obtain ⟨front, back, hsplit⟩ := List.append_of_mem (mem_removedBy.2 ⟨hold, hnew⟩)
  have sorted := removedBy_sorted s.gs.settings.duty d
  rw [hsplit, List.pairwise_append] at sorted
  obtain ⟨-, -, hlt⟩ := sorted
  unfold State.conflict
  rw [hsplit, List.findSome?_append]
  have none' : (front.findSome? fun a => s.ft.owners[a].map fun f => (a, f)) = none := by
    rw [List.findSome?_eq_none_iff]
    intro b hb
    obtain ⟨hold, hnew⟩ := mem_removedBy.1 (hsplit ▸ List.mem_append_left _ hb)
    rw [hlow b (hlt b hb a (by simp)) hold hnew]
    rfl
  rw [none', List.findSome?_cons, ha]
  rfl

/-- Settles O47: the checks of R143 in their order, and the wait of R144. -/
theorem setGlass : Obligations.SetGlass := by
  intro p s ht hl
  have taken : exec (.setGlass p) s = .next (doSetGlass p s.entered) :=
    congrArg Host.Outcome.next (hostRequest_taken ht (decide_eq_true hl))
  rw [taken]
  refine ⟨fun hd => ?_, fun g hd => ⟨fun hh => ?_, fun a f hh hold hnew ha hlow => ?_, fun hh hfree => ?_⟩⟩
  · simp only [doSetGlass, hd, State.entered_respond]
  · have hh : s.entered.gs.hold.isSome = true := Option.isSome_iff_ne_none.2 hh
    simp only [doSetGlass, hd, hh, if_true, State.entered_respond]
  · have hh : s.entered.gs.hold.isSome = false := by rw [Option.isSome_eq_false_iff, Option.isNone_iff_eq_none]; exact hh
    have hc : s.entered.conflict g.duty = some (a, f) := State.conflict_eq_some (s := s.entered) hold hnew ha hlow
    simp only [doSetGlass, hd, hh, Bool.false_eq_true, if_false, hc]
    rfl
  · have hh : s.entered.gs.hold.isSome = false := by rw [Option.isSome_eq_false_iff, Option.isNone_iff_eq_none]; exact hh
    have hc : s.entered.conflict g.duty = none := State.conflict_eq_none (s := s.entered) hfree
    simp only [doSetGlass, hd, hh, Bool.false_eq_true, if_false, hc]
    rfl

/-! ## HOLD_DISPLAY and RELEASE_DISPLAY -/

/-- Settles O48: by the timeout, and by the hold that stands. -/
theorem holdAndRelease : Obligations.HoldAndRelease := by
  intro s ht
  have release : exec (.releaseDisplay []) s = .next (doRelease s.entered) :=
    congrArg Host.Outcome.next (hostRequest_taken ht rfl)
  refine ⟨congrArg Host.Outcome.next (hostRequest_taken ht rfl), fun b hb => ?_, fun hh => ?_, fun hh => ?_⟩
  · refine congrArg Host.Outcome.next ((hostRequest_taken ht rfl).trans ?_)
    exact if_neg hb
  · rw [release]
    exact congrArg Host.Outcome.next (if_pos (Option.isSome_iff_ne_none.2 hh))
  · rw [release]
    exact congrArg Host.Outcome.next (if_neg (by rw [Option.not_isSome_iff_eq_none]; exact hh))

/-! ## The frame end -/

/-- The commit, whole (R138). -/
theorem State.commit_eq (s : State) : s.commit = { s with
    re := { s.re with changed := s.re.changed && s.gs.hold.isSome }
    gs := { s.gs with shown := if s.re.changed = true ∧ s.gs.hold = none then s.re.plane else s.gs.shown } } := by
  unfold State.commit
  by_cases hc : s.re.changed = true ∧ s.gs.hold = none
  · obtain ⟨hc, hh⟩ := hc
    simp only [hc, hh]
    rfl
  · have kept : (s.re.changed && s.gs.hold.isSome) = s.re.changed := by
      cases h1 : s.re.changed <;> cases h2 : s.gs.hold <;> simp_all
    have none' : ¬(s.re.changed && s.gs.hold.isNone) = true := by
      rwa [Bool.and_eq_true, Option.isNone_iff_eq_none]
    rw [if_neg none', if_neg hc, kept]

/-- The commit and the beginning of the next frame (R132, R133, R138). -/
theorem State.commit_beginFrame (s : State) : s.commit.beginFrame = { s with
    re := { s.re with changed := s.re.changed && s.gs.hold.isSome }
    gs := { s.gs with
      shown := if s.re.changed = true ∧ s.gs.hold = none then s.re.plane else s.gs.shown
      frameTimer := s.gs.settings.period.periods
      drive := s.nextDrive (if s.re.changed = true ∧ s.gs.hold = none then s.re.plane else s.gs.shown)
        s.gs.settings.display } } := by
  rw [State.commit_eq]
  rfl

/-- A frame end outside a reset (R137). -/
theorem exec_frameEnd {s : State} (h : s.csu.held = false) :
    exec .frameEnd s = .next s.applySettings.commit.beginFrame :=
  congrArg Host.Outcome.next (if_neg (Bool.eq_false_iff.1 h))

/-- Settles O49: the settings applied, the commit and the next frame. -/
theorem frameEnd : Obligations.FrameEnd := by
  refine ⟨fun s hh => congrArg Host.Outcome.next (if_pos hh), fun s hh => ⟨fun hp => ?_, fun g hp hw hold => ?_⟩⟩
  · rw [exec_frameEnd hh, State.applySettings_none hp, State.commit_beginFrame]
  · have owners := carryDuty_get s.gs.settings.duty g.duty none s.ft.owners
    have plane := carryDuty_get s.gs.settings.duty g.duty SegState.off s.re.plane
    have shown := carryDuty_get s.gs.settings.duty g.duty SegState.off s.gs.shown
    refine ⟨carryDuty s.gs.settings.duty g.duty none s.ft.owners, carryDuty s.gs.settings.duty g.duty .off s.re.plane,
      if s.re.changed = true then carryDuty s.gs.settings.duty g.duty .off s.re.plane
      else carryDuty s.gs.settings.duty g.duty .off s.gs.shown, owners, plane, fun a => ?_, ?_⟩
    · rw [← shown a]
      split <;> rfl
    · rw [exec_frameEnd hh, State.applySettings_some hp, State.commit_beginFrame]
      simp only [hold, and_true, Option.isSome_none, Bool.and_false, if_pos hw]
      rfl

/-! ## The pins and the glass -/

/-- A segment state is driven lit when it is ON or a blink state whose phase is on (R133). -/
theorem SegState.driven_iff (st : SegState) (slowLit fastLit : Bool) : st.driven slowLit fastLit = true ↔
    st = .on ∨ (st = .blinkSlow ∧ slowLit = true) ∨ (st = .blinkFast ∧ fastLit = true) := by
  cases st <;> simp [SegState.driven]

theorem FramePeriod.periods_pos (f : FramePeriod) : 0 < f.periods := by cases f <;> decide

theorem Duty.commons_pos (d : Duty) : 0 < d.commons := by cases d <;> decide

/-- The common line selected at a moment is the one whose share holds that moment (R132). -/
theorem selectedCommon_iff {g : GlassSettings} {t k : Nat} : selectedCommon g t = k ↔
    k * g.period.periods ≤ t * g.duty.commons ∧ t * g.duty.commons < (k + 1) * g.period.periods := by
  unfold selectedCommon
  rw [Nat.div_eq_iff g.period.periods_pos, Nat.succ_mul]
  have := g.period.periods_pos
  omega

/-- Within a frame a common line of the duty is selected. -/
theorem selectedCommon_lt {g : GlassSettings} {t : Nat} (h : t < g.period.periods) : selectedCommon g t < g.duty.commons := by
  unfold selectedCommon
  rw [Nat.div_lt_iff_lt_mul g.period.periods_pos, Nat.mul_comm]
  exact Nat.mul_lt_mul_of_pos_left h g.duty.commons_pos

/-- How many of the first `n` numbers lie from `a` on and below `b`. -/
theorem countP_range_between (n a b : Nat) :
    ((List.range n).countP fun t => decide (a ≤ t ∧ t < b)) = min b n - a := by
  induction n with
  | zero => simp
  | succ n ih =>
    rw [List.range_succ, List.countP_append, ih, List.countP_singleton]
    split
    · next h => simp only [decide_eq_true_eq] at h; omega
    · next h => simp only [decide_eq_true_eq] at h; omega

/-- The number of whole steps of `c` that reach `n`. -/
theorem ceilDiv_le_iff {n c t : Nat} (hc : 0 < c) : (n + c - 1) / c ≤ t ↔ n ≤ t * c := by
  rw [Nat.div_le_iff_le_mul_add_pred hc, Nat.mul_comm]
  omega

/-- The share of a common line: a whole number of periods within one of an equal share (R132). -/
theorem selectedCommon_share (g : GlassSettings) {k : Nat} (hk : k < g.duty.commons) :
    ((List.range g.period.periods).countP fun t => selectedCommon g t = k) * g.duty.commons <
        g.period.periods + g.duty.commons ∧
      g.period.periods <
        ((List.range g.period.periods).countP fun t => selectedCommon g t = k) * g.duty.commons + g.duty.commons := by
  have hc := g.duty.commons_pos
  have share : ((List.range g.period.periods).countP fun t => selectedCommon g t = k) =
      (List.range g.period.periods).countP fun t =>
        decide ((k * g.period.periods + g.duty.commons - 1) / g.duty.commons ≤ t ∧
          t < ((k + 1) * g.period.periods + g.duty.commons - 1) / g.duty.commons) := by
    refine List.countP_congr fun t _ => ?_
    rw [decide_eq_true_iff, decide_eq_true_iff, selectedCommon_iff, ceilDiv_le_iff hc, ← not_le, ← not_le,
      ceilDiv_le_iff hc]
  rw [share, countP_range_between]
  generalize g.period.periods = n at *
  generalize g.duty.commons = c at *
  have last : ((k + 1) * n + c - 1) / c ≤ n := by
    rw [ceilDiv_le_iff hc, Nat.mul_comm n]
    exact Nat.mul_le_mul_right n hk
  have first := (ceilDiv_le_iff (n := k * n) hc).1 le_rfl
  have next' := (ceilDiv_le_iff (n := (k + 1) * n) hc).1 le_rfl
  have low : (k * n + c - 1) / c * c ≤ k * n + c - 1 := Nat.div_mul_le_self _ _
  have high : ((k + 1) * n + c - 1) / c * c ≤ (k + 1) * n + c - 1 := Nat.div_mul_le_self _ _
  rw [min_eq_left last, Nat.sub_mul]
  rw [Nat.succ_mul] at *
  omega

/-- Settles O50: each line and pin by its definition, and the shares of the common lines. -/
theorem pinsAndGlass : Obligations.PinsAndGlass := by
  refine ⟨fun s => ⟨fun a => ?_, fun hh => if_pos hh, fun hh hd => ?_, fun hh hd => ?_, ?_, ?_, fun p => ?_, ?_⟩, rfl, rfl,
    rfl, rfl, fun g k hk => selectedCommon_share g hk⟩
  · unfold State.glassLit
    rw [Bool.and_eq_true, Bool.and_eq_true, SegState.driven_iff, Bool.not_eq_true', and_assoc]
  · unfold State.lineDrive
    rw [if_neg (Bool.eq_false_iff.1 hh), if_neg (Bool.eq_false_iff.1 hd)]
  · have hpos := s.gs.settings.period.periods_pos
    have hin : s.framePosition < s.gs.settings.period.periods := by
      unfold State.framePosition
      omega
    obtain ⟨h1, h2⟩ := selectedCommon_iff.1 (rfl : selectedCommon s.gs.settings s.framePosition = _)
    refine ⟨selectedCommon s.gs.settings s.framePosition, ?_, selectedCommon_lt hin, h1, h2, fun h0 => ?_⟩
    · unfold State.lineDrive
      rw [if_neg (Bool.eq_false_iff.1 hh), if_pos hd]
    · have hpos : s.framePosition = s.gs.settings.period.periods - 1 := by
        unfold State.framePosition
        rw [h0]
        rfl
      rw [hpos]
      unfold selectedCommon
      cases s.gs.settings.duty <;> cases s.gs.settings.period <;> rfl
  · unfold State.sharedPin
    cases s.gs.settings.duty <;> simp
  · unfold State.sharedPin
    cases s.gs.settings.duty <;> simp
  · simp [State.pinConnected]
  · simp [State.sdoDriven]

/-! ## The attention set -/

theorem Mark.see_eq (m : Mark) : m.see = if m = .absent then .absent else .seen := by cases m <;> rfl

theorem Mark.ack_eq (m : Mark) : m.ack = if m = .seen then .absent else m := by cases m <;> rfl

/-- Settles O51: READ_ATTENTION, and the other two by bits 6 and 7 of their byte. -/
theorem attentionRequests : Obligations.AttentionRequests := by
  intro s ht
  have ack (b : Byte) : exec (.ackAttention [b]) s = .next (doAck [b] s.entered) :=
    congrArg Host.Outcome.next (hostRequest_taken ht rfl)
  have mask (b : Byte) : exec (.setAttentionMask [b]) s = .next (doSetMask [b] s.entered) :=
    congrArg Host.Outcome.next (hostRequest_taken ht rfl)
  refine ⟨⟨s.au.see, fun i k => ?_, Mark.see_eq _, rfl, rfl, congrArg Host.Outcome.next (hostRequest_taken ht rfl)⟩,
    fun b hb => ?_, fun b hb => ?_⟩
  · rw [Attention.see_get, Mark.see_eq]
  · have bits : causeBits (byteAt [b] 0) = some (b.setWidth 6) := if_pos hb
    have bit (k : Nat) (hk : k < 6) : (b.setWidth 6).getLsbD k = b.getLsbD k := by simp [hk]
    refine ⟨s.au.ack (b.setWidth 6), fun i k => ?_, ?_, ?_, rfl, ?_, ?_⟩
    · rw [Attention.ack_get, bit _ (by cases k <;> decide), Mark.ack_eq]
      by_cases h1 : b.getLsbD k.bit = true <;> simp [h1]
    · change (if (b.setWidth 6).getLsbD 4 then s.au.holdExpired.ack else s.au.holdExpired) = _
      rw [bit 4 (by decide), Mark.ack_eq]
      by_cases h1 : b.getLsbD 4 = true <;> simp only [h1, if_true, if_false, true_and, false_and, Bool.false_eq_true]
    · change (if (b.setWidth 6).getLsbD 5 then s.au.restarted.filter (fun r => !r.seen) else s.au.restarted) = _
      rw [bit 5 (by decide)]
      by_cases h1 : b.getLsbD 5 = true
      · cases h2 : s.au.restarted with
        | none => simp
        | some r => cases h3 : r.seen <;> simp [h1, h3, Option.filter]
      · simp only [h1, if_false, false_and, Bool.false_eq_true]
    · rw [ack, doAck, bits]
      rfl
    · rw [mask, doSetMask, bits]
      rfl
  · have bits : causeBits (byteAt [b] 0) = none := if_neg (by change ¬b.toNat < 64; omega)
    constructor
    · rw [ack, doAck, bits]
      rfl
    · rw [mask, doSetMask, bits]
      rfl

/-- ATTN is low exactly with a pair of an unmasked kind in the set (R156). -/
theorem Attention.low_iff (a : Attention) : a.low = true ↔
    (∃ (i : Slot) (k : Cause), (a.channels[i]).get k ≠ .absent ∧ a.mask.getLsbD k.bit = false) ∨
      (a.holdExpired ≠ .absent ∧ a.mask.getLsbD 4 = false) ∨ (a.restarted ≠ none ∧ a.mask.getLsbD 5 = false) := by
  have cause (P : Cause → Prop) : (∃ k, P k) ↔ ((P .result ∨ P .limit) ∨ P .quality) ∨ P .oneShot := by
    constructor
    · rintro ⟨k, hk⟩
      cases k <;> simp [hk]
    · rintro (((h | h) | h) | h) <;> exact ⟨_, h⟩
  unfold Attention.low
  rw [vector_toList_eq]
  simp only [cause, Bool.or_eq_true, or_assoc]
  simp [Mark.present, SlotPairs.get, Cause.bit, Option.isSome_iff_ne_none, or_assoc]

/-- The bits of a byte put together from its four parts (R162). -/
theorem statusBits : ∀ (p o a : Bool) (n : Fin 4),
    (BitVec.ofNat 8 (0x40 + p.toNat * 16 + o.toNat * 8 + a.toNat * 4 + n.val)).toNat / 32 = 2 ∧
    (BitVec.ofNat 8 (0x40 + p.toNat * 16 + o.toNat * 8 + a.toNat * 4 + n.val)).getLsbD 4 = p ∧
    (BitVec.ofNat 8 (0x40 + p.toNat * 16 + o.toNat * 8 + a.toNat * 4 + n.val)).getLsbD 3 = o ∧
    (BitVec.ofNat 8 (0x40 + p.toNat * 16 + o.toNat * 8 + a.toNat * 4 + n.val)).getLsbD 2 = a ∧
    (BitVec.ofNat 8 (0x40 + p.toNat * 16 + o.toNat * 8 + a.toNat * 4 + n.val)).toNat % 4 = n.val := by
  decide

/-- Settles O52: the condition of ATTN pair by pair, and the parts of the status byte. -/
theorem attnAndStatusByte : Obligations.AttnAndStatusByte := by
  intro s
  refine ⟨s.au.low_iff, ?_⟩
  unfold statusByte State.attnLow
  cases hp : s.hp.port with
  | init => exact statusBits _ _ _ 0
  | idle => exact statusBits _ _ _ 1
  | busy => exact statusBits _ _ _ 2
  | done => exact statusBits _ _ _ 3

/-! ## The state right after reset -/

/-- Settles O53: nothing is live, queued, waiting or converting after reset, and both planes are dark. -/
theorem resetIsSound : Obligations.ResetIsSound := by
  have reset : State.reset = State.reset.resetTo .powerOn := rfl
  have channel (j : Slot) : State.reset.channel j = none := reset ▸ State.reset.resetTo_channel .powerOn j
  exact ⟨.empty channel rfl rfl, .empty channel rfl rfl rfl, .empty rfl channel,
    .empty (State.reset.resetTo_field .powerOn), DisplayLaws.reset State.reset .powerOn, fun _ => rfl,
    PairLaw.reset State.reset .powerOn, PortLaw.reset State.reset .powerOn, .empty rfl, .idle rfl⟩

end Sys2Proof.Machine

/-! SUPPORT. O44, O45 and O46: what each kind of field shows. -/

namespace Sys2Proof.Machine

/-! ## Numbers (R123) -/

theorem rescale_same (m : Int) (d : Nat) : rescale m d d = some m := if_pos rfl

/-- Fewer decimals: a division rounded to nearest (R123, step 1). -/
theorem rescale_down {m : Int} {dec d : Nat} (h : d < dec) : rescale m dec d = some (roundAway m (10 ^ (dec - d))) := by
  unfold rescale
  rw [if_neg (by omega), if_pos h]

/-- More decimals: a multiplication, within the range of a mantissa (R123, step 1). -/
theorem rescale_up {m : Int} {dec d : Nat} (h : dec < d) : rescale m dec d =
    if -32768 ≤ m * 10 ^ (d - dec) ∧ m * 10 ^ (d - dec) ≤ 32767 then some (m * 10 ^ (d - dec)) else none := by
  unfold rescale
  rw [if_neg (by omega), if_neg (by omega)]
  push_cast
  rfl

/-- A rounded quotient is no farther from zero than the dividend, but for the rounding. -/
theorem roundAway_natAbs_le (m : Int) {den : Nat} (hd : 0 < den) : (roundAway m den).natAbs ≤ m.natAbs + 1 := by
  obtain ⟨near, -⟩ := roundAway_nearest m hd
  generalize roundAway m den = v at *
  have hv : (v * den).natAbs = v.natAbs * den := by rw [Int.natAbs_mul, Int.natAbs_natCast]
  by_contra h
  have step : (m.natAbs + 2) * den ≤ v.natAbs * den := Nat.mul_le_mul_right den (by omega)
  have grow : m.natAbs * 1 ≤ m.natAbs * den := Nat.mul_le_mul_left _ hd
  rw [Nat.add_mul] at step
  rw [Int.natAbs_natCast] at near
  omega

/-- A mantissa brought to the field decimals has at most six digits. -/
theorem rescale_lt {m v : Int} {dec d : Nat} (hlo : -32768 ≤ m) (hhi : m ≤ 32767) (h : rescale m dec d = some v) :
    v.natAbs < 1000000 := by
  rcases Nat.lt_trichotomy d dec with hd | rfl | hd
  · rw [rescale_down hd] at h
    cases h
    have := roundAway_natAbs_le m (den := 10 ^ (dec - d)) (by positivity)
    omega
  · rw [rescale_same] at h
    cases h
    omega
  · rw [rescale_up hd] at h
    split at h
    · cases h; omega
    · cases h

/-- The glyphs of a number: its minus sign where there is no sign segment, then its digits (R123). -/
def numberGlyphs (sign : Bool) (d : Nat) (v : Int) : List Glyph :=
  (if v < 0 ∧ sign = false then [.dash] else []) ++ (digitString v.natAbs d).map .digit

theorem numberGlyphs_length (sign : Bool) (d : Nat) (v : Int) : (numberGlyphs sign d v).length =
    (digitString v.natAbs d).length + if v < 0 ∧ sign = false then 1 else 0 := by
  unfold numberGlyphs
  rw [List.length_append, List.length_map, Nat.add_comm]
  split <;> rfl

/-- The layout of a number that is no display overflow (R123). -/
theorem numberLayout_some {m v : Int} {dec d : Nat} (h : rescale m dec d = some v) (width : Nat) (sign : Bool) :
    numberLayout width sign d m dec =
      if (numberGlyphs sign d v).length ≤ width then
        { glyphs := alignRight width (numberGlyphs sign d v), sign := sign && decide (v < 0)
          pointAt := if d = 0 then none else some (width - 1 - d) }
      else overLayout width := by
  have glyphs : (if (decide (v < 0) && !sign) = true then Glyph.dash :: (digitString v.natAbs d).map Glyph.digit
      else (digitString v.natAbs d).map Glyph.digit) = numberGlyphs sign d v := by
    unfold numberGlyphs
    cases sign <;> by_cases hv : v < 0 <;> simp [hv]
  unfold numberLayout
  simp only [h, glyphs]

/-- Settles O44: the steps of R123, on the digit string of the rescaled magnitude. -/
theorem numberRule : Obligations.NumberRule := by
  intro width d dec sign m _ hlo hhi
  refine ⟨fun hd => ⟨_, rescale_down hd, ?_⟩, fun hd => by rw [hd, rescale_same], fun hd => rescale_up hd, fun hr => ?_,
    fun v hr => ?_⟩
  · have near := roundAway_nearest m (den := 10 ^ (dec - d)) (by positivity)
    push_cast at near
    exact near
  · simp only [numberLayout, hr]
  · obtain ⟨hspell, hlen, hlead⟩ := digitString_spell d (rescale_lt hlo hhi hr)
    have length := numberGlyphs_length sign d v
    refine ⟨digitString v.natAbs d, hspell, hlen, hlead, fun hw => ?_, fun blanks hw => ?_⟩
    · rw [numberLayout_some hr, if_neg (by omega)]
    · have pad : width - (numberGlyphs sign d v).length = blanks := by omega
      rw [numberLayout_some hr, if_pos (by omega), alignRight, pad]
      rfl

/-! ## The list of a NUMERIC field (R98, R121) -/

/-- An entry of blocks of one length strung together. -/
theorem flatten_uniform_get {α : Type} {l : List (List α)} {w : Nat} (h : ∀ x ∈ l, x.length = w) {k : Nat} {x : List α}
    (hk : l[k]? = some x) {j : Nat} (hj : j < w) (r : List α) : (l.flatten ++ r)[k * w + j]? = x[j]? := by
  induction l generalizing k with
  | nil => simp at hk
  | cons y ys ih =>
    have hy : y.length = w := h y (by simp)
    rw [List.flatten_cons, List.append_assoc]
    cases k with
    | zero =>
      obtain rfl : y = x := by simpa using hk
      rw [Nat.zero_mul, Nat.zero_add, List.getElem?_append_left (by omega)]
    | succ k =>
      rw [List.getElem?_append_right (by rw [Nat.succ_mul]; omega)]
      have e : (k + 1) * w + j - y.length = k * w + j := by rw [Nat.succ_mul]; omega
      rw [e]
      exact ih (fun z hz => h z (List.mem_cons_of_mem _ hz)) (by simpa using hk)

theorem flatten_uniform_length {α : Type} {l : List (List α)} {w : Nat} (h : ∀ x ∈ l, x.length = w) :
    l.flatten.length = l.length * w := by
  induction l with
  | nil => simp
  | cons y ys ih =>
    rw [List.flatten_cons, List.length_append, h y (by simp), ih fun z hz => h z (List.mem_cons_of_mem _ hz),
      List.length_cons, Nat.succ_mul, Nat.add_comm]

theorem Glyph.lights_length (g : Glyph) : g.lights.length = 7 := by
  cases g with
  | digit n => revert n; decide
  | _ => rfl

/-- The segments of one position: the glyph's, and the decimal point where there is one. -/
def Layout.block (l : Layout) (points : Bool) (gk : Glyph × Nat) : List Bool :=
  gk.1.lights ++ (if points then [decide (l.pointAt = some gk.2)] else [])

theorem Layout.lit_eq (l : Layout) (points sign : Bool) : l.lit points sign =
    (l.glyphs.zipIdx.map (l.block points)).flatten ++ (if sign then [l.sign] else []) := rfl

section Lit

variable (l : Layout) (points sign : Bool)

theorem Layout.block_length (gk : Glyph × Nat) : (l.block points gk).length = if points then 8 else 7 := by
  unfold Layout.block
  rw [List.length_append, gk.1.lights_length]
  cases points <;> rfl

theorem Layout.blocks_uniform : ∀ x ∈ l.glyphs.zipIdx.map (l.block points), x.length = if points then 8 else 7 := by
  intro x hx
  obtain ⟨gk, -, rfl⟩ := List.mem_map.1 hx
  exact l.block_length points gk

/-- The segments of the position of a glyph. -/
theorem Layout.lit_get {k : Nat} {g : Glyph} (hg : l.glyphs[k]? = some g) {j : Nat} (hj : j < if points then 8 else 7) :
    (l.lit points sign)[k * (if points then 8 else 7) + j]? = (l.block points (g, k))[j]? := by
  rw [Layout.lit_eq]
  refine flatten_uniform_get (l.blocks_uniform points) ?_ hj _
  rw [List.getElem?_map, List.getElem?_zipIdx, hg]
  simp

theorem Layout.blocks_length : (l.glyphs.zipIdx.map (l.block points)).flatten.length =
    l.glyphs.length * if points then 8 else 7 := by
  rw [flatten_uniform_length (l.blocks_uniform points), List.length_map, List.length_zipIdx]

end Lit

/-- Settles O45: the choice by the source state, the layouts, the glyph table and the order of the list. -/
theorem numericChoice : Obligations.NumericChoice := by
  refine ⟨fun _ _ _ _ _ _ => rfl, fun width d sign => ⟨fun view hv => ?noNumber, fun m => rfl, fun r dec => ?channel⟩, rfl,
    rfl, rfl, rfl, rfl, rfl, rfl, rfl, fun k => ?substitutes, by decide, Glyph.lights_length,
    fun l points sign => ⟨fun k g hg => ⟨fun j hj => ?glyph, fun hp => ?point⟩, fun hs => ?sign, ?length⟩⟩
  case noNumber =>
    rcases hv with rfl | rfl | ⟨r, dec, rfl, ho | ⟨ho, hv⟩⟩
    · rfl
    · rfl
    · simp only [numericLayout, SourceView.shown, ho]
    · simp only [numericLayout, SourceView.shown, ho, hv]
  case channel =>
    refine ⟨fun m ho hv => ?_, fun ho => ?_, fun ho => ?_, fun ho => ?_, fun ho => ?_⟩
    · simp only [numericLayout, SourceView.shown, ho, hv]
    · simp only [numericLayout, SourceView.shown, ho]
    · rcases ho with ho | ho <;> simp only [numericLayout, SourceView.shown, ho]
    · simp only [numericLayout, SourceView.shown, ho]
    · simp only [numericLayout, SourceView.shown, ho]
  case substitutes =>
    simp [overLayout, underLayout, noSignalLayout, noReferenceLayout, substitute, alignRight]
  case glyph =>
    rw [Layout.lit_get l points sign hg (by split <;> omega), Layout.block,
      List.getElem?_append_left (by rw [g.lights_length]; exact hj)]
  case point =>
    subst hp
    have get := Layout.lit_get l true sign hg (j := 7) (by decide)
    rw [Layout.block, List.getElem?_append_right (by rw [g.lights_length]), g.lights_length] at get
    exact get
  case sign =>
    subst hs
    rw [Layout.lit_eq, ← Layout.blocks_length, List.getElem?_append_right le_rfl, Nat.sub_self]
    rfl
  case length =>
    rw [Layout.lit_eq, List.length_append, Layout.blocks_length]
    cases sign <;> rfl

/-! ## BAR, INDICATOR and PATTERN fields (R125, R126) -/

/-- The lit segments of a BAR (R125). -/
theorem litSegments_bar (lo hi : Int) (n : Nat) (v : SourceView) :
    litSegments (.bar lo hi) n v = (List.range n).map fun j => decide (j < v.bar n lo hi) := rfl

theorem litSegments_bar_get (lo hi : Int) (n : Nat) (v : SourceView) (j : Nat) :
    (litSegments (.bar lo hi) n v)[j]? = if j < n then some (decide (j < v.bar n lo hi)) else none := by
  rw [litSegments_bar, List.getElem?_map]
  split
  · next h => rw [List.getElem?_range h]; rfl
  · next h => rw [List.getElem?_eq_none (by simpa using h)]; rfl

theorem litSegments_bar_all {lo hi : Int} {n : Nat} {v : SourceView} (h : v.bar n lo hi = n) :
    litSegments (.bar lo hi) n v = List.replicate n true := by
  rw [litSegments_bar, h, List.eq_replicate_iff]
  simp

theorem litSegments_bar_dark {lo hi : Int} {n : Nat} {v : SourceView} (h : v.bar n lo hi = 0) :
    litSegments (.bar lo hi) n v = List.replicate n false := by
  rw [litSegments_bar, h, List.eq_replicate_iff]
  simp

/-- The count of a BAR is the rounded quotient held to 0..n (R125). -/
theorem barCount_eq (n : Nat) (lo hi v : Int) :
    (barCount n lo hi v : Int) = max 0 (min (n : Int) (roundUp (n * (v - lo)) (hi - lo).toNat)) := by
  unfold barCount
  dsimp only
  split
  · omega
  · split <;> omega

/-- Settles O46: each kind by the source state. -/
theorem barIndicatorPattern : Obligations.BarIndicatorPattern := by
  intro n
  refine ⟨fun lo hi v hlt => ?value, fun lo hi r dec => ⟨fun ho => ?full, fun ho => ?dark, fun ho hv => ?absent, ?_, ?_⟩,
    fun r dec => ⟨rfl, rfl, ?alarm, ?doubt, rfl⟩, fun c => ?detached, fun x => rfl, fun e he => ?pattern, ?noPattern⟩
  case value =>
    have hw : ((hi - lo).toNat : Int) = hi - lo := by omega
    have bounds := roundUp_bounds (n * (v - lo)) (den := (hi - lo).toNat) (by omega)
    have count := barCount_eq n lo hi v
    rw [hw] at bounds
    refine ⟨_, _, bounds.1, bounds.2, count, fun r dec ho hv j => ?_, fun j => ?_⟩
    · have bar : (SourceView.channel r dec).bar n lo hi = barCount n lo hi v := by simp only [SourceView.bar, ho, hv]
      rw [litSegments_bar_get, bar]
      simp only [Int.ofNat_lt]
    · have bar : (SourceView.host (some (.value v))).bar n lo hi = barCount n lo hi v := rfl
      rw [litSegments_bar_get, bar]
      simp only [Int.ofNat_lt]
  case full => rcases ho with ho | ho <;> exact litSegments_bar_all (by simp only [SourceView.bar, ho])
  case dark => rcases ho with ho | ho | ho | ho <;> exact litSegments_bar_dark (by simp only [SourceView.bar, ho])
  case absent => exact litSegments_bar_dark (by simp only [SourceView.bar, ho, hv])
  · exact litSegments_bar_dark rfl
  · exact litSegments_bar_dark rfl
  case alarm =>
    have holds : (SourceView.channel r dec).holds .alarm = decide (r.limit ≠ .normal) := by
      cases hl : r.limit <;> simp [SourceView.holds, hl]
    rw [litSegments, holds]
  case doubt =>
    have holds : (SourceView.channel r dec).holds .doubt = decide (r.outcome ≠ .good ∨ r.freshness = some .stale) := by
      simp [SourceView.holds]
    rw [litSegments, holds]
  case detached => cases c <;> rfl
  case pattern =>
    subst he
    exact List.ext_getElem (by simp [litSegments]) (by
      intro j h1 h2
      simp [litSegments, SourceView.elements, List.getElem?_eq_getElem h2])
  case noPattern =>
    rw [List.eq_replicate_iff]
    simp [litSegments, SourceView.elements]

end Sys2Proof.Machine

/-! SUPPORT. O15: the wire formats of R176, item by item and payload by payload. -/

namespace Sys2Proof.Machine

/-! ## Coded items -/

/-- A byte is the one that spells a number below 256. -/
theorem byte_eq_iff {b : Byte} {n : Nat} (hn : n < 256) : b = BitVec.ofNat 8 n ↔ b.toNat = n := by
  rw [BitVec.toNat_eq, BitVec.toNat_ofNat, Nat.mod_eq_of_lt hn]

theorem yesNo_eq_some {b : Byte} {v : Bool} : yesNo b = some v ↔ b = if v then 1#8 else 0#8 := by
  unfold yesNo
  split
  · next h => cases v <;> simp [h]
  · next h0 =>
    split
    · next h => cases v <;> simp [h]
    · next h1 => cases v <;> simp [h0, h1]

theorem exists_yesNo {b : Byte} {P : Bool → Prop} :
    (∃ v, yesNo b = some v ∧ P v) ↔ (b = 0#8 ∧ P false) ∨ (b = 1#8 ∧ P true) := by
  constructor
  · rintro ⟨v, hv, hP⟩
    rw [yesNo_eq_some] at hv
    cases v
    · exact .inl ⟨hv, hP⟩
    · exact .inr ⟨hv, hP⟩
  · rintro (⟨rfl, hP⟩ | ⟨rfl, hP⟩)
    · exact ⟨false, rfl, hP⟩
    · exact ⟨true, rfl, hP⟩

theorem methodCode_eq_some {b : Byte} {m : Method} : methodCode b = some m ↔ b = m.byte := by
  unfold methodCode
  split
  · next h => cases m <;> simp [h, Method.byte]
  · next h0 =>
    split
    · next h => cases m <;> simp [h, Method.byte]
    · next h1 => cases m <;> simp [h0, h1, Method.byte]

theorem blinkRateCode_eq_some {b : Byte} {r : BlinkRate} : blinkRateCode b = some r ↔ b = rateByte r := by
  unfold blinkRateCode
  split
  · next h => cases r <;> simp [h, rateByte]
  · next h0 =>
    split
    · next h => cases r <;> simp [h, rateByte]
    · next h1 => cases r <;> simp [h0, h1, rateByte]

theorem dutyCode_eq_some {b : Byte} {d : Duty} : dutyCode b = some d ↔ b = if d = .quarter then 0#8 else 1#8 := by
  unfold dutyCode
  split
  · next h => cases d <;> simp [h]
  · next h0 =>
    split
    · next h => cases d <;> simp [h]
    · next h1 => cases d <;> simp [h0, h1]

theorem biasCode_eq_some {b : Byte} {d : Bias} : biasCode b = some d ↔ b = if d = .third then 0#8 else 1#8 := by
  unfold biasCode
  split
  · next h => cases d <;> simp [h]
  · next h0 =>
    split
    · next h => cases d <;> simp [h]
    · next h1 => cases d <;> simp [h0, h1]

theorem blinkModeCode_eq_some {b : Byte} {m : BlinkMode} : blinkModeCode b = some m ↔ b = m.byte := by
  have code : b = m.byte ↔ b.toNat = m.byte.toNat := BitVec.toNat_eq
  rw [code]
  unfold blinkModeCode
  split <;> cases m <;> simp_all [BlinkMode.byte]

theorem conditionCode_eq_some {b : Byte} {c : Condition} : conditionCode b = some c ↔ b = c.byte := by
  have code : b = c.byte ↔ b.toNat = c.byte.toNat := BitVec.toNat_eq
  rw [code]
  unfold conditionCode
  split <;> cases c <;> simp_all [Condition.byte]

/-- The byte of a frame period. -/
def FramePeriod.byte : FramePeriod → Byte
  | .p1024 => 0#8
  | .p768 => 1#8
  | .p512 => 2#8
  | .p384 => 3#8

theorem periodCode_eq_some {b : Byte} {f : FramePeriod} : periodCode b = some f ↔ b = f.byte := by
  have code : b = f.byte ↔ b.toNat = f.byte.toNat := BitVec.toNat_eq
  rw [code]
  unfold periodCode
  split <;> cases f <;> simp_all [FramePeriod.byte]

/-! ## Numbers, handles and addresses -/

theorem mantissaAt_eq (p : List Byte) (k : Nat) : mantissaAt p k =
    ((byteAt p k).toNat : Int) * 256 + ((byteAt p (k + 1)).toNat : Int)
      - (if 128 ≤ (byteAt p k).toNat then 65536 else 0) := by
  have h0 := (byteAt p k).isLt
  have h1 := (byteAt p (k + 1)).isLt
  unfold mantissaAt signed16 word16
  split <;> split <;> omega

theorem chanHandle_iff {b : Byte} {i : Slot} {g : Fin 16} :
    chanHandle b = some (i, g) ↔ b.toNat = i.val * 16 + g.val := by
  have hb := b.isLt
  have msb : b.msb = true ↔ 128 ≤ b.toNat := by simp [BitVec.msb_eq_decide]
  unfold chanHandle
  split
  · next h =>
    have := msb.1 h
    simp only [reduceCtorEq, false_iff]
    omega
  · next h =>
    have := mt msb.2 h
    simp only [Option.some.injEq, Prod.mk.injEq, Fin.ext_iff, Fin.ofNat]
    omega

theorem chanByte_toNat (i : Slot) (g : Fin 16) : (chanByte i g).toNat = i.val * 16 + g.val := by
  unfold chanByte
  rw [BitVec.toNat_ofNat]
  omega

theorem fieldHandle_iff {b : Byte} {f : FieldIx} {g : Fin 4} :
    fieldHandle b = some (f, g) ↔ b.toNat = 128 + f.val * 4 + g.val := by
  have hb := b.isLt
  have msb : b.msb = true ↔ 128 ≤ b.toNat := by simp [BitVec.msb_eq_decide]
  unfold fieldHandle
  split
  · next h =>
    have := mt msb.2 (Bool.eq_false_iff.1 h)
    simp only [reduceCtorEq, false_iff]
    omega
  · next h =>
    have := msb.1 (by simpa using h)
    split
    · simp only [Option.some.injEq, Prod.mk.injEq, Fin.ext_iff, Fin.ofNat]
      omega
    · simp only [reduceCtorEq, false_iff]
      omega

theorem fieldByte_toNat (f : FieldIx) (g : Fin 4) : (fieldByte f g).toNat = 128 + f.val * 4 + g.val := by
  unfold fieldByte
  rw [BitVec.toNat_ofNat]
  omega

theorem segAddr_iff {b : Byte} {a : SegAddr} : segAddr b = some a ↔ b.toNat = a.val / 33 * 64 + a.val % 33 := by
  have hb := b.isLt
  have ha := a.isLt
  unfold segAddr
  split
  · simp only [Option.some.injEq, Fin.ext_iff]
    omega
  · simp only [reduceCtorEq, false_iff]
    omega

theorem addrByte_toNat (a : SegAddr) : (addrByte a).toNat = a.val / 33 * 64 + a.val % 33 := by
  have ha := a.isLt
  unfold addrByte
  rw [BitVec.toNat_ofNat]
  omega

/-! ## Curves and limits -/

theorem breakpoints_get (p : List Byte) {c j : Nat} (hj : j < c) : (breakpoints p c)[j]? = some
    { x := (byteAt p (3 + 5 * j)).toNat * 65536 + (byteAt p (4 + 5 * j)).toNat * 256 + (byteAt p (5 + 5 * j)).toNat
      y := mantissaAt p (6 + 5 * j) } := by
  unfold breakpoints
  rw [List.getElem?_map, List.getElem?_range hj]
  have h4 : 3 + 5 * j + 1 = 4 + 5 * j := by omega
  have h5 : 4 + 5 * j + 1 = 5 + 5 * j := by omega
  simp only [Option.map_some, word24, word16, h4, h5, ← Nat.add_assoc]

/-- Increasing breakpoints, pair by pair (R70). -/
theorem increasing_iff (pts : List Breakpoint) : increasing pts = true ↔
    ∀ (j : Nat) (a b : Breakpoint), pts[j]? = some a → pts[j + 1]? = some b → a.x < b.x := by
  induction pts with
  | nil => simp [increasing]
  | cons c rest ih =>
    cases rest with
    | nil => simp [increasing]
    | cons d more =>
      simp only [increasing, Bool.and_eq_true, decide_eq_true_eq, ih]
      constructor
      · rintro ⟨hcd, hrest⟩ j a b ha hb
        cases j with
        | zero => cases ha; cases hb; exact hcd
        | succ j => exact hrest j a b ha hb
      · exact fun h => ⟨h 0 c d rfl rfl, fun j a b ha hb => h (j + 1) a b ha hb⟩

theorem curveOk_iff (d : ChannelDef) (pts : List Breakpoint) : curveOk d pts = true ↔
    (pts.length = 0 ∨ (2 ≤ pts.length ∧ pts.length ≤ 8)) ∧
    (∀ (j : Nat) (a b : Breakpoint), pts[j]? = some a → pts[j + 1]? = some b → a.x < b.x) ∧
    ∀ a ∈ pts, a.x ≤ if d.reference = none then 16777215 else 65535 := by
  have largest : maxInput d = if d.reference = none then 16777215 else 65535 := by
    unfold maxInput
    cases d.reference <;> rfl
  unfold curveOk
  rw [← increasing_iff, ← largest]
  simp [and_assoc]

theorem decodeLimits_remove {p : List Byte} : decodeLimits p = some none ↔ byteAt p 1 = 1#8 := by
  unfold decodeLimits
  split
  · next h => simp [h]
  · next h =>
    simp only [h, iff_false]
    split
    · split
      · split <;> simp
      · simp
    · simp

/-- A bound and its presence code (R89). -/
theorem bound_iff {b : Byte} {x : Option Int} {m : Int} :
    (∃ v, yesNo b = some v ∧ (if v then some m else none) = x) ↔ (b = 0#8 ∧ x = none) ∨ (b = 1#8 ∧ x = some m) :=
  exists_yesNo.trans (or_congr (and_congr_right' eq_comm) (and_congr_right' eq_comm))

theorem decodeLimits_set {p : List Byte} {l : Limits} : decodeLimits p = some (some l) ↔
    byteAt p 1 = 0#8 ∧
    ((byteAt p 2 = 0#8 ∧ l.low = none) ∨ (byteAt p 2 = 1#8 ∧ l.low = some (mantissaAt p 3))) ∧
    ((byteAt p 5 = 0#8 ∧ l.high = none) ∨ (byteAt p 5 = 1#8 ∧ l.high = some (mantissaAt p 6))) ∧
    l.hysteresis = (byteAt p 8).toNat * 256 + (byteAt p 9).toNat ∧ l.hysteresis ≤ 1000 := by
  have word : (byteAt p 8).toNat * 256 + (byteAt p 9).toNat = word16 p 8 := rfl
  rw [← bound_iff, ← bound_iff, word]
  constructor
  · intro h
    unfold decodeLimits at h
    split at h
    · cases h
    · split at h
      · next h0 =>
        split at h
        · next v w hv hw =>
          split at h
          · next hh =>
            cases h
            exact ⟨h0, ⟨v, hv, rfl⟩, ⟨w, hw, rfl⟩, rfl, hh⟩
          · cases h
        · cases h
      · cases h
  · rintro ⟨h0, ⟨v, hv, hlow⟩, ⟨w, hw, hhigh⟩, hy, hle⟩
    have h1 : ¬byteAt p 1 = 1#8 := by rw [h0]; decide
    unfold decodeLimits
    rw [if_neg h1, if_pos h0]
    simp only [hv, hw]
    rw [if_pos (by omega), hlow, hhigh, ← hy]

/-! ## Fields -/

theorem decodeAppearance_iff {p : List Byte} {look : Appearance} : decodeAppearance p = some look ↔
    byteAt p 1 = (if look.visible then 1#8 else 0#8) ∧ byteAt p 2 = look.blinkMode.byte ∧
    byteAt p 3 = rateByte look.blinkRate := by
  rw [← yesNo_eq_some, ← blinkModeCode_eq_some, ← blinkRateCode_eq_some]
  unfold decodeAppearance
  constructor
  · intro h
    split at h
    · next v m r hv hm hr => cases h; exact ⟨hv, hm, hr⟩
    · cases h
  · rintro ⟨hv, hm, hr⟩
    simp only [hv, hm, hr]

theorem rateByte_eq (r : BlinkRate) : rateByte r = if r = .fast then 1#8 else 0#8 := by
  cases r <;> rfl

theorem decodeSource_iff {x y : Byte} {src : Source} : decodeSource x y = some src ↔
    (x = 0#8 ∧ src = .host) ∨ (x = 1#8 ∧ src = .detached) ∨
      ∃ i g, x = 2#8 ∧ src = .channel i g ∧ y.toNat = i.val * 16 + g.val := by
  have codes {n : Nat} (hn : n < 256) := byte_eq_iff (b := x) hn
  rw [codes (n := 0) (by decide), codes (n := 1) (by decide), codes (n := 2) (by decide)]
  simp only [← chanHandle_iff]
  unfold decodeSource
  split
  · next h => simp [h, eq_comm]
  · next h => simp [h, eq_comm]
  · next h => simp [h, eq_comm, and_comm]
  · next h0 h1 h2 => simp_all

theorem admits_iff {k : FieldKind} {src : Source} : admits k src = true ↔
    (match k with
      | .numeric .. => True
      | .bar .. => True
      | .indicator c => if c = .hostFlag then src = .host else src ≠ .host
      | .pattern => src = .host) := by
  cases k with
  | numeric | bar => exact ⟨fun _ => trivial, fun _ => rfl⟩
  | indicator c => cases c <;> cases src <;> simp [admits]
  | pattern => cases src <;> simp [admits]

theorem editKind_numeric {p : List Byte} {k : FieldKind} {width dec : Nat} {points sign : Bool} :
    editKind (.numeric width points sign dec) p = some k ↔ k = .numeric width points sign (byteAt p 4).toNat ∧
      1 ≤ width ∧ width ≤ 6 ∧ (byteAt p 4).toNat ≤ 3 ∧ (byteAt p 4).toNat < width := by
  rw [editKind, Option.ite_none_right_eq_some, numericOk_iff, Option.some.injEq, and_comm, eq_comm]

theorem editKind_bar {p : List Byte} {k : FieldKind} {lo hi : Int} : editKind (.bar lo hi) p = some k ↔
    k = .bar (mantissaAt p 5) (mantissaAt p 7) ∧ mantissaAt p 5 < mantissaAt p 7 := by
  rw [editKind, Option.ite_none_right_eq_some, Option.some.injEq, and_comm, eq_comm]

theorem editKind_indicator {p : List Byte} {k : FieldKind} {c0 : Condition} : editKind (.indicator c0) p = some k ↔
    ∃ c : Condition, k = .indicator c ∧ byteAt p 9 = c.byte := by
  rw [editKind, Option.map_eq_some_iff]
  exact exists_congr fun c => ⟨fun ⟨hc, hk⟩ => ⟨hk.symm, conditionCode_eq_some.1 hc⟩,
    fun ⟨hk, hc⟩ => ⟨conditionCode_eq_some.2 hc, hk.symm⟩⟩

theorem editKind_pattern {p : List Byte} {k : FieldKind} : editKind .pattern p = some k ↔ k = .pattern := by
  rw [editKind, Option.some.injEq, eq_comm]

/-- The elements of a packed pattern, the first in bit 7 (R176). -/
theorem packedBit_eq (p : List Byte) (at0 k : Nat) :
    packedBit p at0 k = (byteAt p (at0 + k / 8)).getMsbD (k % 8) := by
  have : k % 8 < 8 := Nat.mod_lt _ (by decide)
  unfold packedBit
  rw [BitVec.getMsbD]
  simp [this]

theorem packedPattern_iff {p : List Byte} {n : Nat} {e : List Bool} : (List.range n).map (packedBit p 3) = e ↔
    e.length = n ∧ ∀ j : Nat, j < e.length → e[j]? = some ((byteAt p (3 + j / 8)).getMsbD (j % 8)) := by
  constructor
  · rintro rfl
    refine ⟨by simp, fun j hj => ?_⟩
    rw [List.length_map, List.length_range] at hj
    rw [List.getElem?_map, List.getElem?_range hj, Option.map_some, packedBit_eq]
  · rintro ⟨rfl, he⟩
    refine List.ext_getElem? fun j => ?_
    by_cases hj : j < e.length
    · rw [he j hj, List.getElem?_map, List.getElem?_range hj, Option.map_some, packedBit_eq]
    · rw [List.getElem?_eq_none (by simpa using hj), List.getElem?_eq_none (by omega)]

theorem decodeDatum_iff {p : List Byte} {x : Option HostDatum} : decodeDatum p = some x ↔
    (byteAt p 1 = 0#8 ∧ x = some (.value (mantissaAt p 2))) ∨
    (byteAt p 1 = 1#8 ∧ ((byteAt p 2 = 0#8 ∧ x = some (.flag false)) ∨ (byteAt p 2 = 1#8 ∧ x = some (.flag true)))) ∨
    (byteAt p 1 = 2#8 ∧ ∃ e, x = some (.pattern e) ∧ e.length = (byteAt p 2).toNat ∧
      ∀ j : Nat, j < e.length → e[j]? = some ((byteAt p (3 + j / 8)).getMsbD (j % 8))) ∨
    (byteAt p 1 = 3#8 ∧ x = none) := by
  have codes {n : Nat} (hn : n < 256) := byte_eq_iff (b := byteAt p 1) hn
  rw [codes (n := 0) (by decide), codes (n := 1) (by decide), codes (n := 2) (by decide), codes (n := 3) (by decide)]
  simp only [← packedPattern_iff]
  unfold decodeDatum
  split
  · next h => simp [h, eq_comm]
  · next h =>
    have flag : (∃ v, yesNo (byteAt p 2) = some v ∧ some (HostDatum.flag v) = x) ↔
        (byteAt p 2 = 0#8 ∧ x = some (.flag false)) ∨ (byteAt p 2 = 1#8 ∧ x = some (.flag true)) :=
      exists_yesNo.trans (or_congr (and_congr_right' eq_comm) (and_congr_right' eq_comm))
    rw [Option.map_eq_some_iff, flag]
    simp [h]
  · next h => simp [h, eq_comm]
  · next h => simp [h, eq_comm]
  · next h0 h1 h2 h3 => simp_all

theorem valueLengthOk_iff {p : List Byte} : valueLengthOk p = true ↔ 2 ≤ p.length ∧ (byteAt p 1 = 0#8 → p.length = 4) ∧
    (byteAt p 1 = 1#8 → p.length = 3) ∧
    (byteAt p 1 = 2#8 → 3 ≤ p.length ∧ p.length = 3 + ((byteAt p 2).toNat + 7) / 8) ∧
    (byteAt p 1 = 3#8 → p.length = 2) := by
  have codes {n : Nat} (hn : n < 256) := byte_eq_iff (b := byteAt p 1) hn
  rw [codes (n := 0) (by decide), codes (n := 1) (by decide), codes (n := 2) (by decide), codes (n := 3) (by decide)]
  unfold valueLengthOk
  rw [Bool.and_eq_true, decide_eq_true_iff]
  refine and_congr_right fun _ => ?_
  split
  · next h => simp [h]
  · next h => simp [h]
  · next h => simp [h]
  · next h => simp [h]
  · next h0 h1 h2 h3 => simp_all

theorem formMatches_iff {k : FieldKind} {x : Option HostDatum} : formMatches k x = true ↔ x = none ∨
    (match k with
      | .numeric .. => ∃ v, x = some (.value v)
      | .bar .. => ∃ v, x = some (.value v)
      | .indicator _ => ∃ b, x = some (.flag b)
      | .pattern => ∃ e, x = some (.pattern e)) := by
  cases k <;> rcases x with _ | _ | _ | _ <;> simp [formMatches]

theorem lengthAllowed_numeric {width dec n : Nat} {points sign : Bool} :
    lengthAllowed (.numeric width points sign dec) n = true ↔
      n = width * (if points then 8 else 7) + (if sign then 1 else 0) := by
  simp only [lengthAllowed, decide_eq_true_eq]
  cases points <;> cases sign <;> simp <;> omega

theorem decodeKind_iff {p : List Byte} {k : FieldKind} : decodeKind p = some k ↔
    ((∃ width points sign dec, k = .numeric width points sign dec ∧ byteAt p 0 = 0#8 ∧
        (byteAt p 6).toNat = width ∧ byteAt p 7 = (if points then 1#8 else 0#8) ∧
        byteAt p 8 = (if sign then 1#8 else 0#8) ∧ (byteAt p 9).toNat = dec ∧
        1 ≤ width ∧ width ≤ 6 ∧ dec ≤ 3 ∧ dec < width) ∨
      (∃ lo hi, k = .bar lo hi ∧ byteAt p 0 = 1#8 ∧ lo = mantissaAt p 6 ∧ hi = mantissaAt p 8 ∧ lo < hi) ∨
      (∃ c : Condition, k = .indicator c ∧ byteAt p 0 = 2#8 ∧ byteAt p 6 = c.byte) ∨
      (k = .pattern ∧ byteAt p 0 = 3#8)) := by
  have codes {n : Nat} (hn : n < 256) := byte_eq_iff (b := byteAt p 0) hn
  rw [codes (n := 0) (by decide), codes (n := 1) (by decide), codes (n := 2) (by decide), codes (n := 3) (by decide)]
  simp only [← yesNo_eq_some, ← conditionCode_eq_some]
  unfold decodeKind
  split
  · next h =>
    simp only [h]
    constructor
    · intro hk
      split at hk
      · next points sign hp hs =>
        split at hk
        · next hn =>
          cases hk
          exact .inl ⟨_, _, _, _, rfl, trivial, rfl, hp, hs, rfl, numericOk_iff.1 hn⟩
        · cases hk
      · cases hk
    · rintro (⟨width, points, sign, dec, rfl, -, rfl, hp, hs, rfl, hn⟩ | ⟨_, _, -, h, -⟩ | ⟨_, -, h, -⟩ | ⟨-, h⟩)
      · simp only [hp, hs]
        rw [if_pos (numericOk_iff.2 hn)]
      · cases h
      · cases h
      · cases h
  · next h =>
    simp only [h, Option.ite_none_right_eq_some, Option.some.injEq]
    constructor
    · rintro ⟨hlt, rfl⟩
      exact .inr (.inl ⟨_, _, rfl, trivial, rfl, rfl, hlt⟩)
    · rintro (⟨_, _, _, _, -, h, -⟩ | ⟨_, _, rfl, -, rfl, rfl, hlt⟩ | ⟨_, -, h, -⟩ | ⟨-, h⟩)
      · cases h
      · exact ⟨hlt, rfl⟩
      · cases h
      · cases h
  · next h =>
    simp [h, and_comm, eq_comm]
  · next h => simp [h, eq_comm]
  · next h0 h1 h2 h3 => simp_all

theorem decodeBind_iff {p : List Byte} {q : BindReq} : decodeBind p = some q ↔ decodeKind p = some q.kind ∧
    decodeAppearance p = some q.look ∧ decodeSource (byteAt p 4) (byteAt p 5) = some q.source ∧
    admits q.kind q.source = true := by
  unfold decodeBind
  constructor
  · intro h
    split at h
    · next k a src hk ha hs =>
      split at h
      · next had => cases h; exact ⟨hk, ha, hs, had⟩
      · cases h
    · cases h
  · rintro ⟨hk, ha, hs, had⟩
    simp only [hk, ha, hs, had, if_true]

/-! ## Channel definitions (R1) -/

theorem isLetter_iff {b : Byte} : isLetter b = true ↔ 0x41 ≤ b.toNat ∧ b.toNat ≤ 0x5A := by
  simp [isLetter]

theorem eq_space_iff {b : Byte} : b = space ↔ b.toNat = 0x20 := byte_eq_iff (by decide)

/-- The characters that may follow the first of a tag (R1). -/
theorem tagTail_iff {b : Byte} : (isTagChar b || b = space) = true ↔
    (0x41 ≤ b.toNat ∧ b.toNat ≤ 0x5A) ∨ (0x30 ≤ b.toNat ∧ b.toNat ≤ 0x39) ∨ b.toNat = 0x20 := by
  unfold isTagChar
  rw [Bool.or_eq_true, Bool.or_eq_true, isLetter_iff, decide_eq_true_iff, eq_space_iff, or_assoc]
  simp

theorem Tag.wellFormed_iff {t : Tag} : t.wellFormed = true ↔
    (0x41 ≤ t.c0.toNat ∧ t.c0.toNat ≤ 0x5A) ∧
    (∀ x ∈ [t.c1, t.c2, t.c3],
      (0x41 ≤ x.toNat ∧ x.toNat ≤ 0x5A) ∨ (0x30 ≤ x.toNat ∧ x.toNat ≤ 0x39) ∨ x.toNat = 0x20) ∧
    (t.c1.toNat = 0x20 → t.c2.toNat = 0x20) ∧ (t.c2.toNat = 0x20 → t.c3.toNat = 0x20) := by
  have padding (x y : Byte) : (decide (x ≠ space) || decide (y = space)) = true ↔ (x.toNat = 0x20 → y.toNat = 0x20) := by
    rw [← eq_space_iff, ← eq_space_iff]
    simp [imp_iff_not_or]
  unfold Tag.wellFormed
  simp only [Bool.and_eq_true, tagTail_iff, isLetter_iff, padding, List.mem_cons, List.not_mem_nil, or_false,
    forall_eq_or_imp, forall_eq, and_assoc]

theorem countLenAllowed_iff {m : Method} {n : Nat} : countLenAllowed m n = true ↔
    (m = .window ∧ 1 ≤ n ∧ n ≤ 1024) ∨ (m = .period ∧ n ∈ [1, 2, 4, 8, 16, 32, 64, 128]) := by
  cases m <;> simp [countLenAllowed, or_assoc]

theorem decodeRef_iff {b : Byte} {n : Nat} {ref : Option RefReq} : decodeRef b n = some ref ↔
    (b = 0xFF#8 ∧ ref = none) ∨ ∃ r, ref = some r ∧ b.toNat = r.slot.val * 16 + r.gen.val ∧ r.maxAge = n ∧
      1 ≤ r.maxAge ∧ r.maxAge ≤ 16383 := by
  unfold decodeRef
  split
  · next h =>
    have high : ∀ r : RefReq, b.toNat ≠ r.slot.val * 16 + r.gen.val := by
      intro r
      rw [h, BitVec.toNat_ofNat]
      omega
    rw [Option.some.injEq]
    constructor
    · exact fun hn => .inl ⟨h, hn.symm⟩
    · rintro (⟨-, hn⟩ | ⟨r, -, hb, -⟩)
      · exact hn.symm
      · exact absurd hb (high r)
  · next h =>
    simp only [h, false_and, false_or, ← chanHandle_iff]
    constructor
    · intro hr
      split at hr
      · cases hr
      · next slot gen hb =>
        split at hr
        · next hage => cases hr; exact ⟨_, rfl, hb, rfl, hage⟩
        · cases hr
    · rintro ⟨r, rfl, hb, rfl, hage⟩
      simp only [hb]
      rw [if_pos hage]

/-- A well-formed definition, part by part. -/
theorem decodeDef_parts {p : List Byte} {k : Nat} {q : DefReq} : decodeDef p k = some q ↔
    methodCode (byteAt p (k + 5)) = some q.method ∧
    decodeRef (byteAt p (k + 13)) (word16 p (k + 14)) = some q.ref ∧ yesNo (byteAt p (k + 16)) = some q.notify ∧
    tagAt p k = q.tag ∧ q.tag.wellFormed = true ∧ (byteAt p (k + 4)).toNat = q.pin.val ∧
    q.countLen = word16 p (k + 6) ∧ countLenAllowed q.method q.countLen = true ∧ q.settle = (byteAt p (k + 8)).toNat ∧
    q.timeout = word16 p (k + 9) ∧ 8 ≤ q.timeout ∧ q.timeout ≤ 1024 ∧
    q.interval = word16 p (k + 11) ∧ 1 ≤ q.interval ∧ q.interval ≤ 16383 := by
  unfold decodeDef
  constructor
  · intro h
    split at h
    · next m ref notify hm hr hn =>
      split at h
      · next hc =>
        obtain ⟨htag, hpin, hlen, ht1, ht2, hi1, hi2⟩ := hc
        cases h
        refine ⟨hm, hr, hn, rfl, htag, ?_, rfl, hlen, rfl, rfl, ht1, ht2, rfl, hi1, hi2⟩
        simp only [Fin.ofNat]
        omega
      · cases h
    · cases h
  · rintro ⟨hm, hr, hn, htag, hwf, hpin, hcl, hlen, hset, hto, ht1, ht2, hint, hi1, hi2⟩
    have hp := q.pin.isLt
    simp only [hm, hr, hn]
    rw [if_pos ⟨htag ▸ hwf, by omega, hcl ▸ hlen, hto ▸ ht1, hto ▸ ht2, hint ▸ hi1, hint ▸ hi2⟩]
    have pin : Fin.ofNat 8 (byteAt p (k + 4)).toNat = q.pin := by
      ext
      simp only [Fin.ofNat]
      omega
    rw [pin, htag, ← hcl, ← hset, ← hto, ← hint]

/-! ## The glass -/

theorem decodeGlass_iff {p : List Byte} {g : GlassSettings} : decodeGlass p = some g ↔
    byteAt p 0 = (if g.duty = .quarter then 0#8 else 1#8) ∧ byteAt p 1 = (if g.bias = .third then 0#8 else 1#8) ∧
    byteAt p 2 = g.period.byte ∧ (byteAt p 3).toNat = g.contrast.val ∧
    byteAt p 4 = (if g.display then 1#8 else 0#8) ∧ (g.bias = .half → g.duty = .third) := by
  rw [← dutyCode_eq_some, ← biasCode_eq_some, ← periodCode_eq_some, ← yesNo_eq_some]
  have pairs (b : Bias) (d : Duty) : (b = .half ∧ d = .quarter) ↔ ¬(b = .half → d = .third) := by
    cases b <;> cases d <;> simp
  unfold decodeGlass
  constructor
  · intro h
    split at h
    · next d b f on hd hb hf ho =>
      split at h
      · split at h
        · cases h
        · next hn =>
          cases h
          exact ⟨hd, hb, hf, rfl, ho, not_not.1 (mt (pairs _ _).2 hn)⟩
      · cases h
    · cases h
  · rintro ⟨hd, hb, hf, hc, ho, hn⟩
    have hlt := g.contrast.isLt
    simp only [hd, hb, hf, ho]
    rw [dif_pos (by omega), if_neg fun h => (pairs _ _).1 h hn]
    simp only [hc]

/-- Settles O15: the formats one by one. -/
theorem payloadFormats : Obligations.PayloadFormats := by
  refine ⟨mantissaAt_eq, fun b i g => ⟨chanHandle_iff, chanByte_toNat i g⟩, fun b f g => ⟨fieldHandle_iff, fieldByte_toNat f g⟩,
    fun b a => ⟨segAddr_iff, addrByte_toNat a, decide_eq_true_iff, decide_eq_true_iff⟩,
    fun p c => ⟨by simp [breakpoints], fun j hj => breakpoints_get p hj⟩, curveOk_iff,
    fun p => ⟨decodeLimits_remove, fun l => decodeLimits_set⟩, fun p look => ?appearance, fun x y src => decodeSource_iff,
    fun k src => admits_iff,
    fun p k => ⟨fun _ _ _ _ => editKind_numeric, fun _ _ => editKind_bar, fun _ => editKind_indicator, editKind_pattern⟩,
    fun p x => decodeDatum_iff, fun p => valueLengthOk_iff, fun k x => formMatches_iff, fun p k q => ?definition,
    fun p q => ?bind, fun n => ⟨fun _ _ _ _ => lengthAllowed_numeric, fun _ _ => ?_, fun _ => ?_, ?_⟩,
    fun p g => decodeGlass_iff⟩
  case appearance =>
    rw [← rateByte_eq]
    exact decodeAppearance_iff
  case definition =>
    rw [decodeDef_parts, methodCode_eq_some, decodeRef_iff, yesNo_eq_some, countLenAllowed_iff, Tag.wellFormed_iff]
    constructor
    · rintro ⟨hm, hr, hn, htag, hwf, hpin, hcl, hlen, hset, hto, ht1, ht2, hint, hi1, hi2⟩
      refine ⟨⟨_, _, _, _, htag.symm, rfl, rfl, rfl, rfl, ?_⟩, hpin, hcl, ?_, hset, hto, ht1, ht2, hint, hi1, hi2, hr, ?_⟩
      · rw [← htag] at hwf
        exact hwf
      · rcases hlen with ⟨h, hlen⟩ | ⟨h, hlen⟩
        · exact .inl ⟨by rw [hm, h]; rfl, h, hlen⟩
        · exact .inr ⟨by rw [hm, h]; rfl, h, hlen⟩
      · cases hv : q.notify with
        | false => exact .inl ⟨by rw [hn, hv]; rfl, rfl⟩
        | true => exact .inr ⟨by rw [hn, hv]; rfl, rfl⟩
    · rintro ⟨⟨a, b, c, d, htag, rfl, rfl, rfl, rfl, hwf⟩, hpin, hcl, hlen, hset, hto, ht1, ht2, hint, hi1, hi2, hr, hn⟩
      refine ⟨?_, hr, ?_, htag.symm, by rw [htag]; exact hwf, hpin, hcl, ?_, hset, hto, ht1, ht2, hint, hi1, hi2⟩
      · rcases hlen with ⟨hm, h, -⟩ | ⟨hm, h, -⟩ <;> rw [hm, h] <;> rfl
      · rcases hn with ⟨hb, h⟩ | ⟨hb, h⟩ <;> rw [hb, h] <;> rfl
      · rcases hlen with ⟨-, hlen⟩ | ⟨-, hlen⟩
        · exact .inl hlen
        · exact .inr hlen
  case bind =>
    have parts := decodeBind_iff (p := p) (q := q)
    rw [decodeKind_iff, decodeAppearance_iff, decodeSource_iff, admits_iff, rateByte_eq] at parts
    simp only [and_assoc] at parts
    exact parts
  · simp [lengthAllowed]
  · simp [lengthAllowed]
  · simp [lengthAllowed]

end Sys2Proof.Machine

/-! SUPPORT. O26: the first check of a request that names a channel or a field. -/

namespace Sys2Proof.Machine

/-! ## Payload bytes that are not well-formed -/

theorem boolByte_toNat (v : Bool) : (if v then 1#8 else 0#8).toNat ≤ 1 := by
  cases v <;> decide

theorem BlinkMode.byte_toNat (m : BlinkMode) : m.byte.toNat ≤ 3 := by
  cases m <;> decide

theorem rateByte_toNat (r : BlinkRate) : (rateByte r).toNat ≤ 1 := by
  cases r <;> decide

theorem Condition.byte_toNat (c : Condition) : c.byte.toNat ≤ 5 := by
  cases c <;> decide

theorem decodeAppearance_none {p : List Byte}
    (h : 1 < (byteAt p 1).toNat ∨ 3 < (byteAt p 2).toNat ∨ 1 < (byteAt p 3).toNat) : decodeAppearance p = none := by
  refine Option.eq_none_iff_forall_ne_some.2 fun look hlook => ?_
  obtain ⟨hv, hm, hr⟩ := decodeAppearance_iff.1 hlook
  rw [hv, hm, hr] at h
  have := boolByte_toNat look.visible
  have := BlinkMode.byte_toNat look.blinkMode
  have := rateByte_toNat look.blinkRate
  omega

theorem decodeSource_none {x y : Byte} (h : 2 < x.toNat ∨ (x = 2#8 ∧ y.msb = true)) : decodeSource x y = none := by
  refine Option.eq_none_iff_forall_ne_some.2 fun src hsrc => ?_
  rcases decodeSource_iff.1 hsrc with ⟨rfl, -⟩ | ⟨rfl, -⟩ | ⟨i, g, rfl, -, hy⟩
  · exact absurd h (by simp)
  · exact absurd h (by simp)
  · have high : y.msb = true := by simpa using h
    rw [BitVec.msb_eq_decide, decide_eq_true_iff] at high
    omega

theorem decodeDatum_none {p : List Byte}
    (h : 3 < (byteAt p 1).toNat ∨ (byteAt p 1 = 1#8 ∧ 1 < (byteAt p 2).toNat)) : decodeDatum p = none := by
  refine Option.eq_none_iff_forall_ne_some.2 fun x hx => ?_
  rcases decodeDatum_iff.1 hx with ⟨hb, -⟩ | ⟨hb, hflag⟩ | ⟨hb, -⟩ | ⟨hb, -⟩
  · exact absurd h (by simp [hb])
  · have hlt : 1 < (byteAt p 2).toNat := by simpa [hb] using h
    rcases hflag with ⟨hf, -⟩ | ⟨hf, -⟩ <;> exact absurd hlt (by simp [hf])
  · exact absurd h (by simp [hb])
  · exact absurd h (by simp [hb])

theorem decodeLimits_none {p : List Byte} (h : 1 < (byteAt p 1).toNat ∨
    (byteAt p 1 = 0#8 ∧ (1 < (byteAt p 2).toNat ∨ 1 < (byteAt p 5).toNat ∨
      1000 < (byteAt p 8).toNat * 256 + (byteAt p 9).toNat))) : decodeLimits p = none := by
  refine Option.eq_none_iff_forall_ne_some.2 fun x hx => ?_
  cases x with
  | none => exact absurd h (by simp [decodeLimits_remove.1 hx])
  | some l =>
    obtain ⟨hb, hlow, hhigh, hhys, hle⟩ := decodeLimits_set.1 hx
    have low : (byteAt p 2).toNat ≤ 1 := by rcases hlow with ⟨h, -⟩ | ⟨h, -⟩ <;> simp [h]
    have high : (byteAt p 5).toNat ≤ 1 := by rcases hhigh with ⟨h, -⟩ | ⟨h, -⟩ <;> simp [h]
    have mode : (byteAt p 1).toNat = 0 := by simp [hb]
    omega

/-- Parameters of EDIT_FIELD that are not well-formed for the kind (R105). -/
theorem editKind_none {p : List Byte} {k : FieldKind}
    (h : (∃ width points sign dec, k = .numeric width points sign dec ∧
        (3 < (byteAt p 4).toNat ∨ width ≤ (byteAt p 4).toNat)) ∨
      (∃ lo hi, k = .bar lo hi ∧ mantissaAt p 7 ≤ mantissaAt p 5) ∨
      (∃ c, k = .indicator c ∧ 5 < (byteAt p 9).toNat)) : editKind k p = none := by
  refine Option.eq_none_iff_forall_ne_some.2 fun k' hk' => ?_
  rcases h with ⟨width, points, sign, dec, rfl, hbad⟩ | ⟨lo, hi, rfl, hbad⟩ | ⟨c, rfl, hbad⟩
  · obtain ⟨-, -, -, h3, hlt⟩ := editKind_numeric.1 hk'
    omega
  · obtain ⟨-, hlt⟩ := editKind_bar.1 hk'
    omega
  · obtain ⟨c', -, hc'⟩ := editKind_indicator.1 hk'
    have := c'.byte_toNat
    rw [hc'] at hbad
    omega

/-! ## Requests on a channel and on a field -/

/-- A malformed payload of a request on a field is refused whatever the target byte is. -/
theorem onField_malformed {ok : Bool} {b : Byte} {act : FieldIx → Field → State → State} {s : State}
    (hok : ok = false) : onField ok b act s = s.respond .badParameter [] := by
  unfold onField
  cases fieldHandle b with
  | none => rfl
  | some h => rw [hok]; rfl

theorem doModify_onChannel {p : List Byte} (h : (decodeDef p 1).isSome = true) (s : State) :
    ∃ act, doModify p s = onChannel true (byteAt p 0) act s := by
  obtain ⟨q, hq⟩ := Option.isSome_iff_exists.1 h
  unfold doModify
  rw [hq]
  exact ⟨_, rfl⟩

theorem doEdit_onField {p : List Byte} (h : (decodeAppearance p).isSome = true) (s : State) :
    ∃ act, doEdit p s = onField true (byteAt p 0) act s := by
  obtain ⟨a, ha⟩ := Option.isSome_iff_exists.1 h
  unfold doEdit
  rw [ha]
  exact ⟨_, rfl⟩

theorem doRetarget_onField {p : List Byte} (h : (decodeSource (byteAt p 1) (byteAt p 2)).isSome = true) (s : State) :
    ∃ act, doRetarget p s = onField true (byteAt p 0) act s := by
  obtain ⟨src, hsrc⟩ := Option.isSome_iff_exists.1 h
  unfold doRetarget
  rw [hsrc]
  exact ⟨_, rfl⟩

/-- A request of good form that names a channel runs on the channel's handle. -/
theorem channelTarget_onChannel {c : Instr} {b : Byte} {s : State} (ht : s.takes) (h : channelTarget c = some b) :
    ∃ ok act, ok = true ∧ exec c s = .next (onChannel ok b act s.entered) := by
  unfold channelTarget at h
  split at h
  case h_1 => cases h; exact ⟨true, _, rfl, congrArg Host.Outcome.next (hostRequest_taken ht rfl)⟩
  case h_2 => cases h; exact ⟨true, _, rfl, congrArg Host.Outcome.next (hostRequest_taken ht rfl)⟩
  case h_3 => cases h; exact ⟨true, _, rfl, congrArg Host.Outcome.next (hostRequest_taken ht rfl)⟩
  case h_4 => cases h; exact ⟨true, _, rfl, congrArg Host.Outcome.next (hostRequest_taken ht rfl)⟩
  case h_5 =>
    obtain ⟨hw, hb⟩ := Option.ite_none_right_eq_some.1 h
    cases hb
    exact ⟨_, _, hw, congrArg Host.Outcome.next (hostRequest_taken ht rfl)⟩
  case h_6 =>
    obtain ⟨hl, hb⟩ := Option.ite_none_right_eq_some.1 h
    cases hb
    exact ⟨_, _, decide_eq_true hl, congrArg Host.Outcome.next (hostRequest_taken ht rfl)⟩
  case h_7 =>
    obtain ⟨⟨hl, hd⟩, hb⟩ := Option.ite_none_right_eq_some.1 h
    cases hb
    exact ⟨_, _, hd, congrArg Host.Outcome.next (hostRequest_taken ht (decide_eq_true hl))⟩
  case h_8 p =>
    obtain ⟨⟨hl, hd⟩, hb⟩ := Option.ite_none_right_eq_some.1 h
    cases hb
    have ok : (decide (byteAt p 2 = 0#8) || decide ((byteAt p 1).toNat ≤ 3)) = true := by simpa using hd
    exact ⟨_, _, ok, congrArg Host.Outcome.next (hostRequest_taken ht hl)⟩
  case h_9 =>
    obtain ⟨⟨hl, hd⟩, hb⟩ := Option.ite_none_right_eq_some.1 h
    cases hb
    obtain ⟨act, run⟩ := doModify_onChannel hd s.entered
    exact ⟨true, act, rfl, congrArg Host.Outcome.next ((hostRequest_taken ht (decide_eq_true hl)).trans run)⟩
  case h_10 => cases h

/-- A request of good form that names a field runs on the field's handle. -/
theorem fieldTarget_onField {c : Instr} {b : Byte} {s : State} (ht : s.takes) (h : fieldTarget c = some b) :
    ∃ ok act, ok = true ∧ exec c s = .next (onField ok b act s.entered) := by
  unfold fieldTarget at h
  split at h
  case h_1 => cases h; exact ⟨true, _, rfl, congrArg Host.Outcome.next (hostRequest_taken ht rfl)⟩
  case h_2 => cases h; exact ⟨true, _, rfl, congrArg Host.Outcome.next (hostRequest_taken ht rfl)⟩
  case h_3 b x y =>
    obtain ⟨hsrc, hb⟩ := Option.ite_none_right_eq_some.1 h
    cases hb
    obtain ⟨act, run⟩ := doRetarget_onField (p := [b, x, y]) hsrc s.entered
    exact ⟨true, act, rfl, congrArg Host.Outcome.next ((hostRequest_taken ht rfl).trans run)⟩
  case h_4 =>
    obtain ⟨⟨hl, hd⟩, hb⟩ := Option.ite_none_right_eq_some.1 h
    cases hb
    obtain ⟨act, run⟩ := doEdit_onField hd s.entered
    exact ⟨true, act, rfl, congrArg Host.Outcome.next ((hostRequest_taken ht (decide_eq_true hl)).trans run)⟩
  case h_5 =>
    obtain ⟨⟨hl, hd⟩, hb⟩ := Option.ite_none_right_eq_some.1 h
    cases hb
    exact ⟨_, _, hd, congrArg Host.Outcome.next (hostRequest_taken ht hl)⟩
  case h_6 => cases h

/-! ## The obligation -/

/-- Payload bytes that are not well-formed are refused BAD_PARAMETER (R2, R57, R75, R84, R89, R95, R105, R106, R128). -/
theorem exec_malformed {c : Instr} {s : State} (ht : s.takes) (hl : lengthMatches c = true)
    (h : (∃ p, c = .modifyChannel p ∧ decodeDef p 1 = none) ∨
      (∃ p, c = .measureNow p ∧ 1 < (byteAt p 1).toNat) ∨
      (∃ p, c = .setCurve p ∧ byteAt p 2 ≠ 0#8 ∧ 3 < (byteAt p 1).toNat) ∨
      (∃ p, c = .setLimits p ∧ (1 < (byteAt p 1).toNat ∨
        (byteAt p 1 = 0#8 ∧ (1 < (byteAt p 2).toNat ∨ 1 < (byteAt p 5).toNat ∨
          1000 < (byteAt p 8).toNat * 256 + (byteAt p 9).toNat)))) ∨
      (∃ p, c = .setStaleLimit p ∧ 16383 < (byteAt p 1).toNat * 256 + (byteAt p 2).toNat) ∨
      (∃ p, c = .editField p ∧
        (1 < (byteAt p 1).toNat ∨ 3 < (byteAt p 2).toNat ∨ 1 < (byteAt p 3).toNat)) ∨
      (∃ p, c = .retargetField p ∧
        (2 < (byteAt p 1).toNat ∨ (byteAt p 1 = 2#8 ∧ (byteAt p 2).msb = true))) ∨
      (∃ p, c = .setFieldValue p ∧
        (3 < (byteAt p 1).toNat ∨ (byteAt p 1 = 1#8 ∧ 1 < (byteAt p 2).toNat)))) :
    exec c s = .next { s with hp := s.answered .badParameter [] } := by
  rw [← State.entered_respond]
  rcases h with ⟨p, rfl, hp⟩ | ⟨p, rfl, hp⟩ | ⟨p, rfl, h0, h3⟩ | ⟨p, rfl, hp⟩ | ⟨p, rfl, hp⟩ | ⟨p, rfl, hp⟩ |
    ⟨p, rfl, hp⟩ | ⟨p, rfl, hp⟩ <;> refine congrArg Host.Outcome.next ((hostRequest_taken ht hl).trans ?_)
  · simp only [doModify, hp]
  · exact onChannel_malformed (congrArg Option.isSome (yesNo_eq_none.2 hp))
  · have bad : (decide (byteAt p 2 = 0#8) || decide ((byteAt p 1).toNat ≤ 3)) = false := by simp [h0, h3]
    exact onChannel_malformed bad
  · exact onChannel_malformed (congrArg Option.isSome (decodeLimits_none hp))
  · exact onChannel_malformed (decide_eq_false (Nat.not_le.2 hp))
  · simp only [doEdit, decodeAppearance_none hp]
  · simp only [doRetarget, decodeSource_none hp]
  · exact onField_malformed (congrArg Option.isSome (decodeDatum_none hp))

/-- Settles O26: the target byte, the payload bytes, and the parameters against the field's kind. -/
theorem targetRefusals : Obligations.TargetRefusals := by
  intro c s ht
  refine ⟨fun b hb => ?_, fun b hb => ?_, exec_malformed ht, fun p f g d hl hb hd hbad => ?_⟩
  · obtain ⟨ok, act, hok, run⟩ := channelTarget_onChannel ht hb
    rw [run]
    exact ⟨fun hm => by rw [onChannel_field hm, State.entered_respond],
      fun i g hh hacc => by rw [onChannel_stale (s := s.entered) hh hok hacc, State.entered_respond]⟩
  · obtain ⟨ok, act, hok, run⟩ := fieldTarget_onField ht hb
    rw [run]
    exact ⟨fun hm => by rw [onField_channel hm, State.entered_respond],
      fun f g hh hacc => by rw [onField_stale (s := s.entered) hh hok hacc, State.entered_respond]⟩
  · refine congrArg Host.Outcome.next ((hostRequest_taken ht (decide_eq_true hl)).trans ?_)
    rw [← State.entered_respond]
    cases hlook : decodeAppearance p with
    | none => simp only [doEdit, hlook]
    | some look =>
      simp only [doEdit, hlook]
      rw [onField_accepted (s := s.entered) hb rfl hd]
      simp only [doEditAccepted, editKind_none hbad]

end Sys2Proof.Machine

/-! SUPPORT. O22, O23: the reports of a channel and of a field, byte by byte. -/

namespace Sys2Proof.Machine

/-! ## Reports with open bits -/

theorem fillOpen_length (free : Nat → Byte) (given opens : List Byte) :
    (fillOpen free given opens).length = given.length := by
  simp [fillOpen]

theorem byteAt_fillOpen (free : Nat → Byte) (given opens : List Byte) {k : Nat} (hk : k < given.length) :
    byteAt (fillOpen free given opens) k = byteAt given k ||| (free k &&& byteAt opens k) := by
  rw [byteAt, fillOpen, List.getD_eq_getElem?_getD, List.getElem?_map, List.getElem?_range hk]
  rfl

/-- Free bits change a byte only where it is open. -/
theorem or_free_masked (g f o : Byte) : (g ||| (f &&& o)) &&& ~~~o = g &&& ~~~o := by
  ext i hi
  simp only [BitVec.getElem_and, BitVec.getElem_or, BitVec.getElem_not]
  cases g[i] <;> cases f[i] <;> cases o[i] <;> rfl

/-- A report whose open bits are free is the given bytes everywhere else. -/
theorem fillOpen_sameBut (free : Nat → Byte) {opens given given' : List Byte} (h : given = given') :
    sameBut opens given (fillOpen free given' opens) := by
  subst h
  refine ⟨fillOpen_length _ _ _, fun k hk => ?_⟩
  rw [byteAt_fillOpen _ _ _ hk, or_free_masked]

/-! ## Items of a report -/

/-- A mantissa's two bytes are those of the whole number itself (R176). -/
theorem mantissaBytes_eq (m : Int) : mantissaBytes m = [BitVec.ofInt 8 (m / 256), BitVec.ofInt 8 m] := by
  have high : BitVec.ofNat 8 ((m % 65536).toNat / 256) = BitVec.ofInt 8 (m / 256) := by
    apply BitVec.eq_of_toNat_eq
    rw [BitVec.toNat_ofNat, BitVec.toNat_ofInt]
    omega
  have low : BitVec.ofNat 8 (m % 65536).toNat = BitVec.ofInt 8 m := by
    apply BitVec.eq_of_toNat_eq
    rw [BitVec.toNat_ofNat, BitVec.toNat_ofInt]
    omega
  rw [mantissaBytes, bytes16, high, low]

theorem flag_weight (P : Prop) [Decidable P] (n : Nat) : (decide P).toNat * n = if P then n else 0 := by
  by_cases h : P <;> simp [h]

theorem bool_weight (b : Bool) (n : Nat) : b.toNat * n = if b then n else 0 := by
  cases b <;> simp

theorem bool_toNat (b : Bool) : b.toNat = if b then 1 else 0 := by
  cases b <;> rfl

theorem bool_byte (b : Bool) : BitVec.ofNat 8 b.toNat = if b then 1#8 else 0#8 := by
  cases b <;> rfl

/-! ## The channel report -/

/-- Settles O22: the result part as a list, and the report by its groups of bytes. -/
theorem channelReport : Obligations.ChannelReport := by
  refine ⟨fun r => ?_, fun s i c => fillOpen_sameBut _ ?_⟩
  · rw [resultPart, bytes24, bytes16, bytes16, bytes16, mantissaBytes_eq, bool_weight, bool_weight, bool_weight,
      flag_weight, bool_toNat]
    cases r.limit <;> cases r.outcome <;> rfl
  · refine congrArg₂ (· ++ ·) (congrArg₂ (· ++ ·) ?_ rfl) ?_
    · rw [defBytes, limitBytes, mantissaBytes_eq, mantissaBytes_eq, bool_byte]
      simp only [bytes16, Tag.bytes, List.cons_append, List.nil_append, List.cons.injEq, true_and, and_true]
      refine ⟨rfl, ?_, ?_, ?_, ?_, ?_⟩
      · cases c.state <;> rfl
      · cases c.defn.method <;> rfl
      · rw [State.refByte]
        cases c.defn.reference <;> rfl
      · cases c.curve <;> rfl
      · cases c.limits with
        | none => rfl
        | some l => exact congrArg (BitVec.ofNat 8) (by rw [bool_weight, bool_weight])
    · rw [scheduleByte, bool_weight, bool_weight, bool_toNat]
      simp [State.queued]

/-! ## The field report -/

/-- An element of a window of eight is the list's own (R176). -/
theorem window_getD (e : List Bool) (n : Nat) {j : Nat} (hj : j < 8) :
    ((e.drop n).take 8).getD j false = e.getD (n + j) false := by
  simp [List.getD_eq_getElem?_getD, hj]

theorem packByte_window (e : List Bool) (n : Nat) : packByte ((e.drop n).take 8) = BitVec.ofNat 8
    ((if e.getD n false then 128 else 0) + (if e.getD (n + 1) false then 64 else 0)
      + (if e.getD (n + 2) false then 32 else 0) + (if e.getD (n + 3) false then 16 else 0)
      + (if e.getD (n + 4) false then 8 else 0) + (if e.getD (n + 5) false then 4 else 0)
      + (if e.getD (n + 6) false then 2 else 0) + (if e.getD (n + 7) false then 1 else 0)) := by
  have window : (List.range 8).map (fun k => (((e.drop n).take 8).getD k false).toNat * 2 ^ (7 - k)) =
      (List.range 8).map fun k => if e.getD (n + k) false then 2 ^ (7 - k) else 0 :=
    List.map_congr_left fun k hk => by rw [window_getD e n (List.mem_range.1 hk), bool_weight]
  rw [packByte, window]
  simp only [List.range, List.range.loop, List.map_cons, List.map_nil, List.sum_cons, List.sum_nil, Nat.add_zero,
    Nat.reduceSub, Nat.reducePow]
  simp only [Nat.add_assoc]

/-- Settles O23: the report by its groups of bytes. -/
theorem fieldReport_bytes : Obligations.FieldReport := by
  refine fun h d => fillOpen_sameBut _ (congrArg₂ (· ++ ·) (congrArg₂ (· ++ ·) (congrArg₂ (· ++ ·)
    (congrArg₂ (· ++ ·) ?look ?source) ?kind) ?data) rfl)
  case look =>
    rw [bool_byte, rateByte_eq]
    cases d.kind <;> cases d.blinkMode <;> rfl
  case source => cases d.source <;> rfl
  case kind =>
    cases d.kind with
    | numeric width points sign dec => simp only [FieldKind.parameters, bool_byte]
    | bar lo hi => simp only [FieldKind.parameters, mantissaBytes_eq, List.cons_append, List.nil_append]
    | indicator c => cases c <;> rfl
    | pattern => rfl
  case data =>
    cases d.hostData with
    | none => rfl
    | some x =>
      cases x with
      | value m => simp only [hostDataBytes, mantissaBytes_eq, List.cons_append, List.nil_append]
      | flag b => simp only [hostDataBytes, bool_byte]
      | pattern e => simp only [hostDataBytes, packBytes, packByte_window]

end Sys2Proof.Machine

/-! SUPPORT. O24: the states of READ_PLANE and the attention report, byte by byte. -/

namespace Sys2Proof.Machine

/-! ## Planes -/

theorem geometry_quarter : (geometry .quarter).map Fin.val = (List.range 128).map fun n => n / 32 * 33 + n % 32 := by
  rfl

theorem geometry_third : (geometry .third).map Fin.val = (List.range 99).map id := by
  rfl

/-- The address at a place of a geometry whose addresses are listed by a function of the place. -/
theorem geometry_get {d : Duty} {count n : Nat} {f : Nat → Nat} (h : (geometry d).map Fin.val = (List.range count).map f)
    (hn : n < count) {a : SegAddr} (ha : a.val = f n) : (geometry d)[n]? = some a := by
  have value : ((geometry d).map Fin.val)[n]? = some a.val := by
    rw [h, List.getElem?_map, List.getElem?_range hn, ha]
    rfl
  rw [List.getElem?_map, Option.map_eq_some_iff] at value
  obtain ⟨b, hb, hba⟩ := value
  rw [hb, Fin.ext hba]

theorem geometry_length {d : Duty} {count : Nat} {f : Nat → Nat}
    (h : (geometry d).map Fin.val = (List.range count).map f) : (geometry d).length = count := by
  simpa using congrArg List.length h

theorem planeBytes_length (d : Duty) (pl : Plane) : (planeBytes d pl).length = ((geometry d).length + 3) / 4 := by
  simp [planeBytes]

theorem SegState.code_lt (st : SegState) : st.code < 4 := by
  cases st <;> decide

/-- The states of a byte, two bits each (R176). -/
theorem stateByte_state (st : List SegState) {j : Nat} (hj : j < 4) :
    (stateByte st).toNat / 4 ^ (3 - j) % 4 = (st.getD j .off).code := by
  have h0 := (st.getD 0 .off).code_lt
  have h1 := (st.getD 1 .off).code_lt
  have h2 := (st.getD 2 .off).code_lt
  have h3 := (st.getD 3 .off).code_lt
  rw [stateByte, BitVec.toNat_ofNat]
  match j, hj with
  | 0, _ => omega
  | 1, _ => omega
  | 2, _ => omega
  | 3, _ => omega

/-- The state at a place of the report of a plane, OFF behind the geometry's last address (R146, R176). -/
theorem planeBytes_state (d : Duty) (pl : Plane) {n : Nat} (hn : n / 4 < ((geometry d).length + 3) / 4) :
    (byteAt (planeBytes d pl) (n / 4)).toNat / 4 ^ (3 - n % 4) % 4 =
      (((geometry d)[n]?.map fun a => pl[a]).getD SegState.off).code := by
  have place : 4 * (n / 4) + n % 4 = n := by omega
  have hlt : n % 4 < 4 := Nat.mod_lt _ (by decide)
  have byte : byteAt (planeBytes d pl) (n / 4) =
      stateByte ((((geometry d).map fun a => pl[a]).drop (4 * (n / 4))).take 4) := by
    rw [byteAt, planeBytes, List.getD_eq_getElem?_getD, List.getElem?_map, List.length_map, List.getElem?_range hn]
    rfl
  rw [byte, stateByte_state _ hlt, List.getD_eq_getElem?_getD, List.getElem?_take_of_lt hlt, List.getElem?_drop, place,
    List.getElem?_map]

/-- The state of an address of the geometry in the report of a plane. -/
theorem planeBytes_address (pl : Plane) {d : Duty} {count n : Nat} {f : Nat → Nat}
    (h : (geometry d).map Fin.val = (List.range count).map f) (hn : n < count) {a : SegAddr} (ha : a.val = f n) :
    (byteAt (planeBytes d pl) (n / 4)).toNat / 4 ^ (3 - n % 4) % 4 = (pl[a]).code := by
  rw [planeBytes_state d pl (by rw [geometry_length h]; omega), geometry_get h hn ha]
  rfl

/-! ## The attention report -/

theorem weighted_bits : ∀ (b0 b1 b2 b3 b4 b5 b6 b7 : Bool) (k : Fin 8),
    (BitVec.ofNat 8 (b0.toNat + b1.toNat * 2 + b2.toNat * 4 + b3.toNat * 8 + b4.toNat * 16 + b5.toNat * 32
      + b6.toNat * 64 + b7.toNat * 128)).getLsbD k.val = [b0, b1, b2, b3, b4, b5, b6, b7].getD k.val false := by
  decide

/-- The present and the unseen bit of a kind in its slot's byte (R176). -/
theorem SlotPairs.byte_bits (m : SlotPairs) (k : Cause) :
    m.byte.getLsbD k.bit = decide (m.get k ≠ .absent) ∧ m.byte.getLsbD (4 + k.bit) = decide (m.get k = .unseen) := by
  have bit (k : Fin 8) := weighted_bits m.result.present m.limit.present m.quality.present m.oneShot.present
    m.result.isUnseen m.limit.isUnseen m.quality.isUnseen m.oneShot.isUnseen k
  cases k with
  | result => exact ⟨bit 0, bit 4⟩
  | limit => exact ⟨bit 1, bit 5⟩
  | quality => exact ⟨bit 2, bit 6⟩
  | oneShot => exact ⟨bit 3, bit 7⟩

/-- The given bytes of the attention report. -/
def attentionGiven (au : Attention) (slots : Vector ChannelSlot 8) : List Byte :=
  (List.finRange 8).map (fun i => au.channels[i].byte)
    ++ (List.finRange 8).map (fun i => if au.channels[i].any then chanByte i slots[i].gen else 0xFF#8)
    ++ [au.deviceByte, au.maskByte]

theorem attentionReport_eq (au : Attention) (slots : Vector ChannelSlot 8) (ix : Nat) : attentionReport au slots ix =
    fillOpen (fun k => Config.freeByte (ix + (k - 16))) (attentionGiven au slots)
      (List.replicate 16 0#8 ++ [0xC0#8, 0xC0#8]) := rfl

theorem attentionGiven_length (au : Attention) (slots : Vector ChannelSlot 8) : (attentionGiven au slots).length = 18 :=
  rfl

/-- The first sixteen bytes have no open bit. -/
theorem attentionReport_given (au : Attention) (slots : Vector ChannelSlot 8) (ix : Nat) {k : Nat} (hk : k < 16) :
    byteAt (attentionReport au slots ix) k = byteAt (attentionGiven au slots) k := by
  have closed : byteAt (List.replicate 16 0#8 ++ [0xC0#8, 0xC0#8]) k = 0#8 := by
    rw [byteAt, List.getD_append _ _ _ _ (by simpa using hk), List.getD_replicate _ hk]
  rw [attentionReport_eq, byteAt_fillOpen _ _ _ (by rw [attentionGiven_length]; omega), closed, BitVec.and_zero,
    BitVec.or_zero]

theorem attentionReport_slot (au : Attention) (slots : Vector ChannelSlot 8) (ix : Nat) (i : Slot) :
    byteAt (attentionReport au slots ix) i.val = au.channels[i].byte := by
  rw [attentionReport_given _ _ _ (by omega)]
  fin_cases i <;> rfl

theorem attentionReport_handle (au : Attention) (slots : Vector ChannelSlot 8) (ix : Nat) (i : Slot) :
    byteAt (attentionReport au slots ix) (8 + i.val) =
      if au.channels[i].any then chanByte i slots[i].gen else 0xFF#8 := by
  rw [attentionReport_given _ _ _ (by omega)]
  fin_cases i <;> rfl

/-- The open bits 7..6 of a byte, masked off. -/
theorem or_high_mod (g f : Byte) : (g ||| (f &&& 0xC0#8)).toNat % 64 = g.toNat % 64 := by
  have low : (g ||| (f &&& 0xC0#8)).setWidth 6 = g.setWidth 6 := by
    rw [BitVec.setWidth_or, BitVec.setWidth_and, show (0xC0#8).setWidth 6 = 0#6 from rfl, BitVec.and_zero,
      BitVec.or_zero]
  have value := congrArg BitVec.toNat low
  rwa [BitVec.toNat_setWidth, BitVec.toNat_setWidth] at value

theorem or_high_bit (g f : Byte) (k : Fin 6) : (g ||| (f &&& 0xC0#8)).getLsbD k.val = g.getLsbD k.val := by
  have high : ∀ k : Fin 6, (0xC0#8).getLsbD k.val = false := by decide
  rw [BitVec.getLsbD_or, BitVec.getLsbD_and, high, Bool.and_false, Bool.or_false]

theorem Attention.deviceByte_mod (au : Attention) : au.deviceByte.toNat % 64 =
    (if au.holdExpired = .absent then 0 else 1) + (if au.holdExpired = .unseen then 2 else 0) +
      (au.restarted.map fun r => 4 + (if r.seen then 0 else 8) + r.reason.code * 16).getD 0 := by
  unfold Attention.deviceByte
  cases au.restarted with
  | none => cases au.holdExpired <;> rfl
  | some r =>
    rcases r with ⟨reason, seen⟩
    cases au.holdExpired <;> cases reason <;> cases seen <;> rfl

/-- Settles O24: the planes state by state, the attention report byte by byte. -/
theorem planeAndAttentionReports : Obligations.PlaneAndAttentionReports := by
  have code (st : SegState) : st.code = (match st with
      | .off => 0
      | .on => 1
      | .blinkSlow => 2
      | .blinkFast => 3) := by cases st <;> rfl
  refine ⟨fun pl => ⟨?_, ?_, fun common line a ha => ?_, fun a ha => ?_, ?_⟩,
    fun au slots ix => ⟨?_, fun i k => ?_, fun i => ⟨fun k hk => ?_, fun hi => ?_⟩, ?_, fun k => ?_⟩⟩
  · rw [planeBytes_length, geometry_length geometry_quarter]
  · rw [planeBytes_length, geometry_length geometry_third]
  · have hc := common.isLt
    have hl := line.isLt
    exact (planeBytes_address pl geometry_quarter (by omega) (by omega)).trans (code _)
  · exact (planeBytes_address pl geometry_third ha rfl).trans (code _)
  · have behind := planeBytes_state .third pl (n := 99) (by rw [geometry_length geometry_third]; decide)
    rw [List.getElem?_eq_none (geometry_length geometry_third).le] at behind
    exact (congrArg (· % 4) (Nat.div_one _).symm).trans behind
  · rw [attentionReport_eq, fillOpen_length, attentionGiven_length]
  · rw [attentionReport_slot]
    exact SlotPairs.byte_bits _ k
  · rw [attentionReport_handle, if_pos ((SlotPairs.any_iff _).2 ⟨k, hk⟩)]
    rfl
  · rw [attentionReport_handle, if_neg fun h => ?_]
    obtain ⟨k, hk⟩ := (SlotPairs.any_iff _).1 h
    exact hk (hi k)
  · rw [attentionReport_eq, byteAt_fillOpen _ _ _ (by rw [attentionGiven_length]; decide)]
    refine (or_high_mod _ _).trans ((Attention.deviceByte_mod au).trans (congrArg (HAdd.hAdd _) ?_))
    cases au.restarted with
    | none => rfl
    | some r => rcases r with ⟨_ | _ | _, seen⟩ <;> rfl
  · rw [attentionReport_eq, byteAt_fillOpen _ _ _ (by rw [attentionGiven_length]; decide)]
    refine (or_high_bit _ _ k).trans ?_
    have mask : byteAt (attentionGiven au slots) 17 = au.mask.setWidth 8 := rfl
    rw [mask, BitVec.getLsbD_setWidth, decide_eq_true (by omega), Bool.true_and]

end Sys2Proof.Machine
